-- ==== Sys2Proof/Word.lean ====
section
/-! DEFINITION. The widths of the KE-DES cipher core's registers (10_state.md R22, R28, R38, R39). -/

namespace Sys2Proof

/-- A register of the port, a block, a key or a command word (R22, R80). -/
abbrev Word := BitVec 64

/-- One byte of a block or of a message (00_scope.md R13). -/
abbrev Byte := BitVec 8

/-- A round key K1..K16 and a register RK1..RK16 (R28). -/
abbrev RoundKey := BitVec 48

/-- A half L or R of the block transform, the input and output of F (R39, R145). -/
abbrev Half := BitVec 32

/-- A half C or D of the key schedule (R38). -/
abbrev KeyHalf := BitVec 28

/-- The position of a register in the port: its offset divided by 8 (20_memory.md R57). -/
abbrev PortIndex := BitVec 5

/-- The round key file: entry r - 1 is RKr (R28). -/
abbrev KeyFile := Vector RoundKey 16

end Sys2Proof
end

