-- ==== Sys2Proof/Syntax.lean ====
section
/-! DEFINITION. The instructions: one constructor for each row of spec/opcode_table.json, which are the eleven command
words (30_encoding.md R83) and the host's bus accesses (20_memory.md R50 to R52), and the raw bus access. -/

namespace Sys2Proof

/-- One bus access (R50, R51). The offset is carried as a word index, so a misaligned or partial access cannot be
written down (R57). -/
inductive Access where
  | write (index : PortIndex) (data : Word)
  | read  (index : PortIndex)
  deriving DecidableEq, Repr

/-- The rows of the opcode table. A write carries the 64-bit value of the access. -/
inductive Instr where
  /-- NOP (R220). -/
  | nop
  /-- KSCHED (R127). -/
  | ksched
  /-- CBC_START (R181). -/
  | cbcStart
  /-- BT_FWD (R166). -/
  | btFwd
  /-- BT_REV (R167). -/
  | btRev
  /-- ROUND_F (R147: ARG is the round index minus 1). -/
  | roundF (arg : BitVec 4)
  /-- CBC_ENC (R183). -/
  | cbcEnc
  /-- CBC_ENC_FINAL (R184: ARG is the count n of valid plaintext bytes). -/
  | cbcEncFinal (n : BitVec 4)
  /-- CBC_DEC (R186). -/
  | cbcDec
  /-- CBC_DEC_END (R187: ARG is the count of ciphertext bytes left over). -/
  | cbcDecEnd (tail : BitVec 4)
  /-- SOFT_RESET (R221). -/
  | softReset
  /-- `wr CMD`: BusWrite at offset 0x00. -/
  | wrCmd (v : Word)
  /-- `wr STATUS`: BusWrite at offset 0x08. -/
  | wrStatus (v : Word)
  /-- `wr KEY`: BusWrite at offset 0x10. -/
  | wrKey (v : Word)
  /-- `wr IV`: BusWrite at offset 0x18. -/
  | wrIv (v : Word)
  /-- `wr DIN`: BusWrite at offset 0x20. -/
  | wrDin (v : Word)
  /-- `wr DOUT`: BusWrite at offset 0x28. -/
  | wrDout (v : Word)
  /-- `wr CHAIN`: BusWrite at offset 0x30. -/
  | wrChain (v : Word)
  /-- `wr RK1`: BusWrite at offset 0x40. -/
  | wrRk1 (v : Word)
  /-- `wr RK2`: BusWrite at offset 0x48. -/
  | wrRk2 (v : Word)
  /-- `wr RK3`: BusWrite at offset 0x50. -/
  | wrRk3 (v : Word)
  /-- `wr RK4`: BusWrite at offset 0x58. -/
  | wrRk4 (v : Word)
  /-- `wr RK5`: BusWrite at offset 0x60. -/
  | wrRk5 (v : Word)
  /-- `wr RK6`: BusWrite at offset 0x68. -/
  | wrRk6 (v : Word)
  /-- `wr RK7`: BusWrite at offset 0x70. -/
  | wrRk7 (v : Word)
  /-- `wr RK8`: BusWrite at offset 0x78. -/
  | wrRk8 (v : Word)
  /-- `wr RK9`: BusWrite at offset 0x80. -/
  | wrRk9 (v : Word)
  /-- `wr RK10`: BusWrite at offset 0x88. -/
  | wrRk10 (v : Word)
  /-- `wr RK11`: BusWrite at offset 0x90. -/
  | wrRk11 (v : Word)
  /-- `wr RK12`: BusWrite at offset 0x98. -/
  | wrRk12 (v : Word)
  /-- `wr RK13`: BusWrite at offset 0xA0. -/
  | wrRk13 (v : Word)
  /-- `wr RK14`: BusWrite at offset 0xA8. -/
  | wrRk14 (v : Word)
  /-- `wr RK15`: BusWrite at offset 0xB0. -/
  | wrRk15 (v : Word)
  /-- `wr RK16`: BusWrite at offset 0xB8. -/
  | wrRk16 (v : Word)
  /-- `rd CMD`: BusRead at offset 0x00. -/
  | rdCmd
  /-- `rd STATUS`: BusRead at offset 0x08. -/
  | rdStatus
  /-- `rd KEY`: BusRead at offset 0x10. -/
  | rdKey
  /-- `rd IV`: BusRead at offset 0x18. -/
  | rdIv
  /-- `rd DIN`: BusRead at offset 0x20. -/
  | rdDin
  /-- `rd DOUT`: BusRead at offset 0x28. -/
  | rdDout
  /-- `rd CHAIN`: BusRead at offset 0x30. -/
  | rdChain
  /-- `rd RK1`: BusRead at offset 0x40. -/
  | rdRk1
  /-- `rd RK2`: BusRead at offset 0x48. -/
  | rdRk2
  /-- `rd RK3`: BusRead at offset 0x50. -/
  | rdRk3
  /-- `rd RK4`: BusRead at offset 0x58. -/
  | rdRk4
  /-- `rd RK5`: BusRead at offset 0x60. -/
  | rdRk5
  /-- `rd RK6`: BusRead at offset 0x68. -/
  | rdRk6
  /-- `rd RK7`: BusRead at offset 0x70. -/
  | rdRk7
  /-- `rd RK8`: BusRead at offset 0x78. -/
  | rdRk8
  /-- `rd RK9`: BusRead at offset 0x80. -/
  | rdRk9
  /-- `rd RK10`: BusRead at offset 0x88. -/
  | rdRk10
  /-- `rd RK11`: BusRead at offset 0x90. -/
  | rdRk11
  /-- `rd RK12`: BusRead at offset 0x98. -/
  | rdRk12
  /-- `rd RK13`: BusRead at offset 0xA0. -/
  | rdRk13
  /-- `rd RK14`: BusRead at offset 0xA8. -/
  | rdRk14
  /-- `rd RK15`: BusRead at offset 0xB0. -/
  | rdRk15
  /-- `rd RK16`: BusRead at offset 0xB8. -/
  | rdRk16
  deriving DecidableEq, Repr

end Sys2Proof
end

