-- ==== Sys2Proof/WellFormed.lean ====
section
/-! DEFINITION. The operand ranges of 30_encoding.md R82 to R84: everything else of an instruction is in range by its
type. -/

namespace Sys2Proof

/-- ARG is in 0..7 for CBC_ENC_FINAL and CBC_DEC_END (R82, R84). -/
def argUpTo7 (arg : BitVec 4) : Bool := decide (arg.toNat < 8)

/-- The instruction has an encoding (R84). -/
def Instr.wf : Instr → Bool
  | .cbcEncFinal n => argUpTo7 n
  | .cbcDecEnd tail => argUpTo7 tail
  | .roundF _ => true
  | .nop => true
  | .ksched => true
  | .cbcStart => true
  | .btFwd => true
  | .btRev => true
  | .cbcEnc => true
  | .cbcDec => true
  | .softReset => true
  | .wrCmd _ => true
  | .wrStatus _ => true
  | .wrKey _ => true
  | .wrIv _ => true
  | .wrDin _ => true
  | .wrDout _ => true
  | .wrChain _ => true
  | .wrRk1 _ => true
  | .wrRk2 _ => true
  | .wrRk3 _ => true
  | .wrRk4 _ => true
  | .wrRk5 _ => true
  | .wrRk6 _ => true
  | .wrRk7 _ => true
  | .wrRk8 _ => true
  | .wrRk9 _ => true
  | .wrRk10 _ => true
  | .wrRk11 _ => true
  | .wrRk12 _ => true
  | .wrRk13 _ => true
  | .wrRk14 _ => true
  | .wrRk15 _ => true
  | .wrRk16 _ => true
  | .rdCmd => true
  | .rdStatus => true
  | .rdKey => true
  | .rdIv => true
  | .rdDin => true
  | .rdDout => true
  | .rdChain => true
  | .rdRk1 => true
  | .rdRk2 => true
  | .rdRk3 => true
  | .rdRk4 => true
  | .rdRk5 => true
  | .rdRk6 => true
  | .rdRk7 => true
  | .rdRk8 => true
  | .rdRk9 => true
  | .rdRk10 => true
  | .rdRk11 => true
  | .rdRk12 => true
  | .rdRk13 => true
  | .rdRk14 => true
  | .rdRk15 => true
  | .rdRk16 => true

end Sys2Proof
end

