-- ==== Sys2Proof/Decode.lean ====
section
/-! DEFINITION. Decoding of command words (30_encoding.md) and of bus accesses (20_memory.md R52), and the encoder. -/

namespace Sys2Proof

/-- What carries an instruction: a command word (30_encoding.md R80), or an access of the register port (R50, R51). -/
inductive Code where
  | command (w : Word)
  | bus (a : Access)
  deriving DecidableEq, Repr

/-- Why a code is no instruction of the opcode table. The first three are the causes of the fatal errors of the same
names (60_exceptions.md R240); the last is an offset that 20_memory.md R52 reserves, which is no error (R55, R56). -/
inductive Reject where
  | rsvdBits
  | illegalOp
  | badArg
  | reservedOffset
  deriving DecidableEq, Repr

/-- The result of decoding. -/
inductive Decoded where
  | instr (i : Instr)
  | reject (why : Reject)
  deriving DecidableEq, Repr

/-- The instruction, where there is one. -/
def Decoded.instr? : Decoded → Option Instr
  | .instr i => some i
  | .reject _ => none

/-- OP = w[7:0] (R80, R81). -/
def opField (w : Word) : BitVec 8 := w.extractLsb' 0 8

/-- ARG = w[11:8] (R80, R81). -/
def argField (w : Word) : BitVec 4 := w.extractLsb' 8 4

/-- RSVD = w[63:12] (R80, R81). -/
def rsvdField (w : Word) : BitVec 52 := w.extractLsb' 12 52

/-- A command whose ARG must be 0 (R82). -/
def withoutArg (i : Instr) (arg : BitVec 4) : Decoded :=
  if arg = 0#4 then .instr i else .reject .badArg

/-- A command whose ARG is in 0..7 (R82). -/
def withSmallArg (f : BitVec 4 → Instr) (arg : BitVec 4) : Decoded :=
  if argUpTo7 arg then .instr (f arg) else .reject .badArg

/-- The opcode map (R83) applied to OP and ARG. -/
def decodeOp (op : BitVec 8) (arg : BitVec 4) : Decoded :=
  match op.toNat with
  | 0x00 => withoutArg .nop arg
  | 0x01 => withoutArg .ksched arg
  | 0x02 => withoutArg .cbcStart arg
  | 0x03 => withoutArg .btFwd arg
  | 0x04 => withoutArg .btRev arg
  | 0x05 => .instr (.roundF arg)
  | 0x06 => withoutArg .cbcEnc arg
  | 0x07 => withSmallArg .cbcEncFinal arg
  | 0x08 => withoutArg .cbcDec arg
  | 0x09 => withSmallArg .cbcDecEnd arg
  | 0x0F => withoutArg .softReset arg
  | _ => .reject .illegalOp

/-- A command word is an instruction exactly when RSVD = 0, OP is in the table and ARG is in its range (R84). The
checks stand in the order of 60_exceptions.md R245 steps 4, 5 and 6. -/
def decodeCommand (w : Word) : Decoded :=
  if rsvdField w = 0#52 then decodeOp (opField w) (argField w) else .reject .rsvdBits

/-- The register map (20_memory.md R52) for a write. -/
def decodeWrite (index : PortIndex) (v : Word) : Decoded :=
  match index.toNat with
  | 0 => .instr (.wrCmd v)
  | 1 => .instr (.wrStatus v)
  | 2 => .instr (.wrKey v)
  | 3 => .instr (.wrIv v)
  | 4 => .instr (.wrDin v)
  | 5 => .instr (.wrDout v)
  | 6 => .instr (.wrChain v)
  | 8 => .instr (.wrRk1 v)
  | 9 => .instr (.wrRk2 v)
  | 10 => .instr (.wrRk3 v)
  | 11 => .instr (.wrRk4 v)
  | 12 => .instr (.wrRk5 v)
  | 13 => .instr (.wrRk6 v)
  | 14 => .instr (.wrRk7 v)
  | 15 => .instr (.wrRk8 v)
  | 16 => .instr (.wrRk9 v)
  | 17 => .instr (.wrRk10 v)
  | 18 => .instr (.wrRk11 v)
  | 19 => .instr (.wrRk12 v)
  | 20 => .instr (.wrRk13 v)
  | 21 => .instr (.wrRk14 v)
  | 22 => .instr (.wrRk15 v)
  | 23 => .instr (.wrRk16 v)
  | _ => .reject .reservedOffset

/-- The register map (R52) for a read. -/
def decodeRead (index : PortIndex) : Decoded :=
  match index.toNat with
  | 0 => .instr .rdCmd
  | 1 => .instr .rdStatus
  | 2 => .instr .rdKey
  | 3 => .instr .rdIv
  | 4 => .instr .rdDin
  | 5 => .instr .rdDout
  | 6 => .instr .rdChain
  | 8 => .instr .rdRk1
  | 9 => .instr .rdRk2
  | 10 => .instr .rdRk3
  | 11 => .instr .rdRk4
  | 12 => .instr .rdRk5
  | 13 => .instr .rdRk6
  | 14 => .instr .rdRk7
  | 15 => .instr .rdRk8
  | 16 => .instr .rdRk9
  | 17 => .instr .rdRk10
  | 18 => .instr .rdRk11
  | 19 => .instr .rdRk12
  | 20 => .instr .rdRk13
  | 21 => .instr .rdRk14
  | 22 => .instr .rdRk15
  | 23 => .instr .rdRk16
  | _ => .reject .reservedOffset

/-- A bus access as an instruction. -/
def decodeAccess : Access → Decoded
  | .write index v => decodeWrite index v
  | .read index => decodeRead index

/-- The decoder. -/
def decode : Code → Decoded
  | .command w => decodeCommand w
  | .bus a => decodeAccess a

/-! ## The encoder -/

/-- A field of a 64-bit word with its least significant bit at `lo` (00_scope.md R10). -/
def fieldAt {n : Nat} (lo : Nat) (v : BitVec n) : Word := v.setWidth 64 <<< lo

/-- The command word with these fields and RSVD = 0 (R80). -/
def commandWord (op : BitVec 8) (arg : BitVec 4) : Word := fieldAt 0 op ||| fieldAt 8 arg

/-- A command without an argument (R84). -/
def plainCommand (op : BitVec 8) : Code := .command (commandWord op 0#4)

/-- The code of an instruction: for a command its word (R83, R84), for an access its offset and value (R52). -/
def encode : Instr → Code
  | .nop => plainCommand 0x00#8
  | .ksched => plainCommand 0x01#8
  | .cbcStart => plainCommand 0x02#8
  | .btFwd => plainCommand 0x03#8
  | .btRev => plainCommand 0x04#8
  | .roundF arg => .command (commandWord 0x05#8 arg)
  | .cbcEnc => plainCommand 0x06#8
  | .cbcEncFinal n => .command (commandWord 0x07#8 n)
  | .cbcDec => plainCommand 0x08#8
  | .cbcDecEnd tail => .command (commandWord 0x09#8 tail)
  | .softReset => plainCommand 0x0F#8
  | .wrCmd v => .bus (.write 0#5 v)
  | .wrStatus v => .bus (.write 1#5 v)
  | .wrKey v => .bus (.write 2#5 v)
  | .wrIv v => .bus (.write 3#5 v)
  | .wrDin v => .bus (.write 4#5 v)
  | .wrDout v => .bus (.write 5#5 v)
  | .wrChain v => .bus (.write 6#5 v)
  | .wrRk1 v => .bus (.write 8#5 v)
  | .wrRk2 v => .bus (.write 9#5 v)
  | .wrRk3 v => .bus (.write 10#5 v)
  | .wrRk4 v => .bus (.write 11#5 v)
  | .wrRk5 v => .bus (.write 12#5 v)
  | .wrRk6 v => .bus (.write 13#5 v)
  | .wrRk7 v => .bus (.write 14#5 v)
  | .wrRk8 v => .bus (.write 15#5 v)
  | .wrRk9 v => .bus (.write 16#5 v)
  | .wrRk10 v => .bus (.write 17#5 v)
  | .wrRk11 v => .bus (.write 18#5 v)
  | .wrRk12 v => .bus (.write 19#5 v)
  | .wrRk13 v => .bus (.write 20#5 v)
  | .wrRk14 v => .bus (.write 21#5 v)
  | .wrRk15 v => .bus (.write 22#5 v)
  | .wrRk16 v => .bus (.write 23#5 v)
  | .rdCmd => .bus (.read 0#5)
  | .rdStatus => .bus (.read 1#5)
  | .rdKey => .bus (.read 2#5)
  | .rdIv => .bus (.read 3#5)
  | .rdDin => .bus (.read 4#5)
  | .rdDout => .bus (.read 5#5)
  | .rdChain => .bus (.read 6#5)
  | .rdRk1 => .bus (.read 8#5)
  | .rdRk2 => .bus (.read 9#5)
  | .rdRk3 => .bus (.read 10#5)
  | .rdRk4 => .bus (.read 11#5)
  | .rdRk5 => .bus (.read 12#5)
  | .rdRk6 => .bus (.read 13#5)
  | .rdRk7 => .bus (.read 14#5)
  | .rdRk8 => .bus (.read 15#5)
  | .rdRk9 => .bus (.read 16#5)
  | .rdRk10 => .bus (.read 17#5)
  | .rdRk11 => .bus (.read 18#5)
  | .rdRk12 => .bus (.read 19#5)
  | .rdRk13 => .bus (.read 20#5)
  | .rdRk14 => .bus (.read 21#5)
  | .rdRk15 => .bus (.read 22#5)
  | .rdRk16 => .bus (.read 23#5)

/-! ## The rows of the opcode table -/

/-- The code of a row of spec/opcode_table.json whose word is `w`: a row of more than 8 bits is a command word, and a
row of 8 bits is a bus offset (R52). A write and a read of one register have the same row bits, and the table has no
bit for the direction or the data: the write of 0 stands for both (log 17). -/
def codeOfTableWord (nbits w : Nat) : Option Code :=
  if nbits ≤ 8 then
    if w < 256 ∧ w % 8 = 0 then some (.bus (.write (BitVec.ofNat 5 (w / 8)) 0#64)) else none
  else
    if w < 2 ^ 64 then some (.command (BitVec.ofNat 64 w)) else none

/-- The instruction the decoder reads from a row's word. -/
def decodeTableWord (nbits w : Nat) : Option Instr :=
  match codeOfTableWord nbits w with
  | some c => (decode c).instr?
  | none => none

end Sys2Proof
end

