-- ==== Sys2Proof/Machine/Bits.lean ====
section
/-! DEFINITION. The bit-sequence primitives (40_bitvector.md) and the byte order of a block (20_memory.md R53). A bit
sequence of length n and an n-bit vector are one object: position i is bit n - i (00_scope.md R10). -/

namespace Sys2Proof.Machine

/-- `s(i)`, the bit at position i of a sequence of length n, positions counted from 1 at the most significant bit (R9,
R10). A position outside 1..n reads 0, and no table in range asks for one (R104). -/
def seqBit {n : Nat} (s : BitVec n) (i : Nat) : Bool :=
  if 1 ≤ i ∧ i ≤ n then s.getLsbD (n - i) else false

/-- The sequence of length m whose bit at position i is `f i`, for i in 1..m. -/
def seqOf (m : Nat) (f : Nat → Bool) : BitVec m := BitVec.ofFnLE fun j : Fin m => f (m - j.val)

/-- `bitsFromInteger(v, w)` (R100): bit i is `(v >> (w - i)) & 1`. -/
def bitsFromInteger (v w : Nat) : BitVec w := seqOf w fun i => (v >>> (w - i)) % 2 == 1

/-- `toInt(s)` (R101): the bits packed most significant first. -/
def toInt {n : Nat} (s : BitVec n) : Nat := s.toNat

/-- `Perm(s, T)` (R104): output position i takes the bit at input position T(i). This is the only place where a table's
1-based position meets an index counted from 0 (R109). -/
def perm {n m : Nat} (s : BitVec n) (t : Vector Nat m) : BitVec m := seqOf m fun i => seqBit s (t.toList.getD (i - 1) 0)

/-- `rotl(s, k)` (R105): the cyclic left rotation by k positions. -/
def rotl {n : Nat} (s : BitVec n) (k : Nat) : BitVec n := s.rotateLeft k

/-- `a ‖ b` for two 32-bit halves: positions 1..32 are a (R107). -/
def joinHalves (a b : Half) : Word := a ++ b

/-- `s(1..32)`, the first half of a block (R107). -/
def leftHalf (s : Word) : Half := s.extractLsb' 32 32

/-- `s(33..64)`, the last half of a block (R107). -/
def rightHalf (s : Word) : Half := s.extractLsb' 0 32

/-- `a ‖ b` for two 28-bit halves (R107). -/
def joinKeyHalves (a b : KeyHalf) : BitVec 56 := a ++ b

/-- `s(1..28)` (R107). -/
def leftKeyHalf (s : BitVec 56) : KeyHalf := s.extractLsb' 28 28

/-- `s(29..56)` (R107). -/
def rightKeyHalf (s : BitVec 56) : KeyHalf := s.extractLsb' 0 28

/-- Byte b_k of a block, register bits [63-8k : 56-8k] (20_memory.md R53), for k in 0..7. -/
def blockByte (w : Word) (k : Nat) : Byte := w.extractLsb' (56 - 8 * k) 8

/-- The block whose byte b_k is `f k` (R53): position 8j + t, for t in 1..8, is bit 8 - t of byte j (R102). -/
def blockOf (f : Nat → Byte) : Word := seqOf 64 fun i => (f ((i - 1) / 8)).getLsbD (7 - (i - 1) % 8)

/-- `bytesFromBits64(s)` (R103): the eight bytes in stream order. -/
def bytesFromBits64 (w : Word) : List Byte := (List.range 8).map (blockByte w)

/-- `bitsFromBytes(m, k)` (R102): the block of bytes m(k)..m(k+7). The codec calls it only where eight bytes remain; a
byte past the end would read 0. -/
def bitsFromBytes (m : List Byte) (k : Nat) : Word := blockOf fun j => m.getD (k + j) 0#8

end Sys2Proof.Machine
end

