-- ==== Sys2Proof/Config.lean ====
section
/-! DEFINITION. What an implementation fixes: the shape of the configuration record TABLES (00_scope.md R8,
92_eei_decisions.md D36), the open parameter RESET_KIND, and the values the spec leaves open, each an opaque
constant applied to the number of the draw. The entries of the tables are in Machine/Tables.lean. -/

namespace Sys2Proof

/-- The configuration record `TABLES` = (PC1, PC2, E, P, IP, FP). Entries keep their published 1-based values
(40_bitvector.md R109). -/
structure Tables where
  pc1 : Vector Nat 56
  pc2 : Vector Nat 48
  e   : Vector Nat 48
  p   : Vector Nat 32
  ip  : Vector Nat 64
  fp  : Vector Nat 64
  deriving DecidableEq, Repr

/-- The kinds the open parameter `RESET_KIND` ranges over, with the number of cycles the input must be held
(70_reset_and_hazards.md R271, U3). -/
inductive ResetKind where
  | synchronous  (holdCycles : Nat)
  | asynchronous (holdCycles : Nat)
  deriving DecidableEq, Repr, Inhabited

namespace Config

/-- The open parameter `RESET_KIND`. No rule depends on it (U3): the assertion of the reset input is one atomic
step, so no definition of the model reads this (log 19). -/
opaque resetKind : ResetKind

/-- What a read of an open register returns while BUSY = 1 (20_memory.md R61, U1): a fresh draw each time. -/
opaque freeWord : Nat → Word

/-- C where the spec leaves it unspecified (10_state.md R38, R42, U4). -/
opaque freeC : Nat → KeyHalf

/-- D where the spec leaves it unspecified (R38, R42, U4). -/
opaque freeD : Nat → KeyHalf

/-- L where the spec leaves it unspecified (R39, R42, U4). -/
opaque freeL : Nat → Half

/-- R where the spec leaves it unspecified (R39, R42, U4). -/
opaque freeR : Nat → Half

/-- The round counter where the spec leaves it unspecified (R39, R42, U4). -/
opaque freeRound : Nat → Nat

end Config

end Sys2Proof
end

