-- ==== Sys2Proof/Machine/State.lean ====
section
/-! DEFINITION. The state of the core (10_state.md), the reasons a step can stop, and the state after reset. -/

namespace Sys2Proof.Machine

/-- The fatal errors (60_exceptions.md R240). Their numbers are in Machine/Flags.lean. -/
inductive ErrCode where
  | illegalOp
  | badArg
  | rsvdBits
  | noKeys
  | busyWrite
  deriving DecidableEq, Repr

/-- One turn of the schedule: who steps next (10_state.md R20). -/
inductive Turn where
  /-- The host makes a bus access (20_memory.md R50, R51). -/
  | access (a : Access)
  /-- The reset input is asserted (70_reset_and_hazards.md R271). -/
  | reset
  /-- The engine may complete the command in flight (R40). -/
  | engine
  deriving DecidableEq, Repr

/-- Why the machine stops with a fault. A fatal error of the core is no such stop: it is recorded in STATUS
(60_exceptions.md R246). -/
inductive Fault where
  /-- Raised by `step`, before any command, when the configured tables hold an entry outside their input
  (40_bitvector.md R104, U12). Safe: the machine stops. The tables of the spec never raise it. -/
  | tableOutOfRange
  deriving DecidableEq, Repr

/-- Why a step has no meaning. -/
inductive Refusal where
  /-- Raised by `exec` for an instruction whose meaning is not written yet. Safe: the machine stops. -/
  | notModelled (mnemonic : String)
  /-- Raised by the engine's turn when PEND holds a word that is no legal command, which no acceptance can have put
  there (60_exceptions.md R242, R245). Safe: the machine stops, and only in states that no run reaches. -/
  | illegalPending
  deriving DecidableEq, Repr

/-- The state of the core, and below it three fields of the model's own. -/
structure State where
  /-- KEY (R23). -/
  key : Word
  /-- IV (R24). -/
  iv : Word
  /-- DIN (R25). -/
  din : Word
  /-- DOUT (R26). -/
  dout : Word
  /-- CHAIN (R27). -/
  chain : Word
  /-- RK1..RK16, RKr at index r - 1 (R28). -/
  rk : KeyFile
  /-- STATUS.KS_VALID (R31). -/
  ksValid : Bool
  /-- STATUS.ERR and STATUS.ERRCODE (R32): no error, or the first one since reset (log 11). -/
  error : Option ErrCode
  /-- STATUS.DEC_SEEN (R33). -/
  decSeen : Bool
  /-- STATUS.TRUNC_WARN (R34). -/
  truncWarn : Bool
  /-- STATUS.PAD_WARN (R35). -/
  padWarn : Bool
  /-- STATUS.PADLEN (R36). -/
  padlen : BitVec 4
  /-- PEND: nothing or one accepted command word (R40). STATUS.BUSY is read from it (R30). -/
  pend : Option Word
  /-- C of the key_schedule_engine (R38). -/
  c : KeyHalf
  /-- D of the key_schedule_engine (R38). -/
  d : KeyHalf
  /-- L of the block_transform_engine (R39). -/
  l : Half
  /-- R of the block_transform_engine (R39). -/
  r : Half
  /-- The round counter of the block_transform_engine (R39; its width is open, log 8). -/
  round : Nat
  /-- The model's own: the turns still to come, in order (R21, R60, R248; log 1). -/
  schedule : List Turn
  /-- The model's own: what the bus has returned to the host, newest first (R51; log 3). -/
  received : List (PortIndex × Word)
  /-- The model's own: how many free values have been drawn (log 4). -/
  draws : Nat
  deriving DecidableEq, Repr

/-- The state after reset (R42, R270). C, D, L, R and the round counter are unspecified by the spec and 0 here (log 5);
the model's own fields are empty (logs 1, 3, 4). -/
def State.reset : State where
  key := 0#64
  iv := 0#64
  din := 0#64
  dout := 0#64
  chain := 0#64
  rk := Vector.replicate 16 0#48
  ksValid := false
  error := none
  decSeen := false
  truncWarn := false
  padWarn := false
  padlen := 0#4
  pend := none
  c := 0#28
  d := 0#28
  l := 0#32
  r := 0#32
  round := 0
  schedule := []
  received := []
  draws := 0

/-- STATUS.BUSY = 1 exactly when PEND holds a command (R30). -/
def State.busy (s : State) : Bool := s.pend.isSome

/-- STATUS.ERR (R32). -/
def State.err (s : State) : Bool := s.error.isSome

end Sys2Proof.Machine
end

