-- ==== Sys2Proof/Machine/Operands.lean ====
section
/-! DEFINITION. The operand forms of the commands (30_encoding.md R82, R83): registers fixed by OP, ARG as a round
index, a byte count or a tail, the two key orders, and the padded block. -/

namespace Sys2Proof.Machine

/-- ARG as an unsigned integer, never sign-extended or scaled (R82). -/
def argValue (arg : BitVec 4) : Nat := arg.toNat

/-- RK(ARG + 1), the round key that ROUND_F takes (42_feistel.md R147). -/
def roundKeyOperand (arg : BitVec 4) (s : State) : RoundKey := s.rk.toList.getD (argValue arg) 0#48

/-- DIN[31:0], the half that ROUND_F takes (R147). -/
def halfOperand (s : State) : Half := s.din.extractLsb' 0 32

/-- FWD = (RK1, ..., RK16) (43_block_transform.md R164). -/
def keysFwd (rk : KeyFile) : List RoundKey := rk.toList

/-- REV = (RK16, ..., RK1) (R164). -/
def keysRev (rk : KeyFile) : List RoundKey := rk.toList.reverse

/-- `PadBlock(w, n)` (44_cbc.md R180): bytes 0..n-1 are those of w, bytes n..7 all equal 8 - n. -/
def padBlock (w : Word) (n : Nat) : Word :=
  blockOf fun k => if k < n then blockByte w k else BitVec.ofNat 8 (8 - n)

/-- The keyed commands, which read round keys (60_exceptions.md R243). -/
def isKeyed : Instr → Bool
  | .roundF _ | .btFwd | .btRev | .cbcEnc | .cbcEncFinal _ | .cbcDec => true
  | .nop | .ksched | .cbcStart | .cbcDecEnd _ | .softReset => false
  | .wrCmd _ | .wrStatus _ | .wrKey _ | .wrIv _ | .wrDin _ | .wrDout _ | .wrChain _ => false
  | .wrRk1 _ | .wrRk2 _ | .wrRk3 _ | .wrRk4 _ | .wrRk5 _ | .wrRk6 _ | .wrRk7 _ | .wrRk8 _ => false
  | .wrRk9 _ | .wrRk10 _ | .wrRk11 _ | .wrRk12 _ | .wrRk13 _ | .wrRk14 _ | .wrRk15 _ | .wrRk16 _ => false
  | .rdCmd | .rdStatus | .rdKey | .rdIv | .rdDin | .rdDout | .rdChain => false
  | .rdRk1 | .rdRk2 | .rdRk3 | .rdRk4 | .rdRk5 | .rdRk6 | .rdRk7 | .rdRk8 => false
  | .rdRk9 | .rdRk10 | .rdRk11 | .rdRk12 | .rdRk13 | .rdRk14 | .rdRk15 | .rdRk16 => false

end Sys2Proof.Machine
end

