-- ==== Sys2Proof/Machine/Flags.lean ====
section
/-! DEFINITION. The STATUS register: the numbers of its error codes (60_exceptions.md R240), the word a read returns
(10_state.md R29), and the padding check behind PAD_WARN and PADLEN (44_cbc.md R180, R187). The core has no arithmetic
flags (R37). -/

namespace Sys2Proof.Machine

/-- The number of an error in STATUS.ERRCODE (R240). -/
def errNumber : ErrCode → BitVec 4
  | .illegalOp => 1#4
  | .badArg => 2#4
  | .rsvdBits => 3#4
  | .noKeys => 4#4
  | .busyWrite => 5#4

/-- STATUS.ERRCODE, 0 when ERR = 0 (R29). -/
def errCodeField (e : Option ErrCode) : BitVec 4 :=
  match e with
  | none => 0#4
  | some c => errNumber c

/-- STATUS assembled from its fields, reserved bits 0 (R29, 45_control.md R227). -/
def statusWord (s : State) : Word :=
  fieldAt 0 (BitVec.ofBool s.busy) ||| fieldAt 1 (BitVec.ofBool s.ksValid) ||| fieldAt 2 (BitVec.ofBool s.err) |||
    fieldAt 3 (BitVec.ofBool s.decSeen) ||| fieldAt 4 (errCodeField s.error) |||
    fieldAt 8 (BitVec.ofBool s.truncWarn) ||| fieldAt 9 (BitVec.ofBool s.padWarn) ||| fieldAt 16 s.padlen

/-- The bits of STATUS that always read exactly: BUSY, ERR and ERRCODE (20_memory.md R61). -/
def statusExactBits : Word := 0xF5#64

/-- What a read of STATUS returns while BUSY = 1: the drawn value in every bit but BUSY, ERR and ERRCODE (R61; log 10). -/
def statusWhileBusy (s : State) (drawn : Word) : Word :=
  (statusWord s &&& statusExactBits) ||| (drawn &&& ~~~statusExactBits)

/-- `PadCheck(w)` (44_cbc.md R180): p = b7, valid when 1 ≤ p ≤ 8 and b_k = p for every k in 8-p..7. -/
def padCheck (w : Word) : Bool × Byte :=
  let p := blockByte w 7
  (decide (1 ≤ p.toNat ∧ p.toNat ≤ 8) &&
    (List.range 8).all (fun k => decide (k < 8 - p.toNat) || blockByte w k == p), p)

/-- PADLEN after a check: p when the padding is valid, else 0 (R187). -/
def padlenOf (check : Bool × Byte) : BitVec 4 := if check.1 then check.2.setWidth 4 else 0#4

end Sys2Proof.Machine
end

