-- ==== Sys2Proof/Machine/Ops.lean ====
section
/-! DEFINITION. The shared operations on the state: recording a fatal error and the reset action that ends it, the
acceptance procedure, completion, host writes and host reads. -/

namespace Sys2Proof.Machine

/-! ## Fatal errors and reset -/

/-- `raise Error(code)` (60_exceptions.md R241): the first error is kept, and nothing else changes. The core has no trap
entry beyond this (R252). -/
def raiseError (code : ErrCode) (s : State) : State :=
  match s.error with
  | none => { s with error := some code }
  | some _ => s

/-- The reset action (70_reset_and_hazards.md R270), the only exit from the fatal state (R246, R252): every register and
STATUS to 0, PEND to nothing; C, D, L, R and the round counter become unspecified, so each is a free value (log 6).
What the host still has to do and has already read is not the core's (logs 1, 3). -/
def resetAction (s : State) : State :=
  { State.reset with
    c := Config.freeC s.draws
    d := Config.freeD s.draws
    l := Config.freeL s.draws
    r := Config.freeR s.draws
    round := Config.freeRound s.draws
    draws := s.draws + 1
    schedule := s.schedule
    received := s.received }

/-! ## Commands: acceptance and completion -/

/-- The SOFT_RESET word (45_control.md R221). -/
def softResetWord : Word := 0x000000000000000F#64

/-- Acceptance of a command word: PEND holds it, which makes BUSY 1 (60_exceptions.md R242, R30). -/
def accept (w : Word) (s : State) : State := { s with pend := some w }

/-- Completion of the command in flight: PEND holds nothing, which makes BUSY 0 (10_state.md R40). -/
def complete (s : State) : State := { s with pend := none }

/-- The error that a word raises at steps 4 to 6 of R245, by why it is no legal command. A command word is never
rejected for an offset, so the last arm has no case. -/
def rejectError : Reject → ErrCode
  | .rsvdBits => .rsvdBits
  | .illegalOp => .illegalOp
  | .badArg => .badArg
  | .reservedOffset => .illegalOp

/-- `Submit(w)`, the procedure for a write of CMD (60_exceptions.md R245); its eight steps in order. -/
def submit (w : Word) (s : State) : State :=
  if w = softResetWord then resetAction s
  else if s.err then s
  else if s.busy then raiseError .busyWrite s
  else
    match decodeCommand w with
    | .reject why => raiseError (rejectError why) s
    | .instr i => if isKeyed i && !s.ksValid then raiseError .noKeys s else accept w s

/-- After a block transform L, R and the round counter are unspecified (10_state.md R39), so each is a free value
(log 7). -/
def leaveTransform (s : State) : State :=
  { s with
    l := Config.freeL s.draws
    r := Config.freeR s.draws
    round := Config.freeRound s.draws
    draws := s.draws + 1 }

/-! ## Host writes -/

/-- A write of KEY, IV or DIN (45_control.md R223 to R226): discarded in the fatal state, discarded with BUSY_WRITE while
a command is in flight, and stored otherwise. -/
def writeData (store : State → State) (s : State) : State :=
  if s.err then s
  else if s.busy then raiseError .busyWrite s
  else store s

/-- A write of a read-only register or of a reserved offset: no state changes and no error (20_memory.md R55, R226). -/
def writeIgnored (_v : Word) (s : State) : State := s

/-! ## Host reads -/

/-- The bus returns `v` to the host for the register at `index`; no state of the core changes (20_memory.md R51). -/
def receive (index : PortIndex) (v : Word) (s : State) : State := { s with received := (index, v) :: s.received }

/-- A read of a register that no command writes: always the exact value (20_memory.md R61). -/
def readExact (index : PortIndex) (v : Word) (s : State) : State := receive index v s

/-- A read that is open while BUSY = 1 (R61): `exact` when no command is in flight, else `busyValue` of a fresh draw. -/
def readOpen (index : PortIndex) (exact : Word) (busyValue : Word → Word) (s : State) : State :=
  if s.busy then receive index (busyValue (Config.freeWord s.draws)) { s with draws := s.draws + 1 }
  else receive index exact s

/-- A read of STATUS (R227, R61). -/
def readStatus (index : PortIndex) (s : State) : State := readOpen index (statusWord s) (statusWhileBusy s) s

/-- A read of DOUT, CHAIN or RKr (R227, R61), which hold `v`. -/
def readResult (index : PortIndex) (v : Word) (s : State) : State := readOpen index v id s

/-- The word of RKr, r = 1..16: zext_64(RKr) (10_state.md R28). -/
def roundKeyWord (r : Nat) (s : State) : Word := (s.rk.toList.getD (r - 1) 0#48).setWidth 64

/-- A read of RKr, at offset 0x40 + 8 (r - 1) (R22, R227). -/
def readRoundKey (r : Nat) (s : State) : State := readResult (BitVec.ofNat 5 (7 + r)) (roundKeyWord r s) s

/-- An access of a reserved offset (20_memory.md R55, R56): a write is ignored and a read returns 0. -/
def reservedAccess (a : Access) (s : State) : State :=
  match a with
  | .write _ v => writeIgnored v s
  | .read index => readExact index 0#64 s

end Sys2Proof.Machine
end

