-- ==== Sys2Proof/Machine/Tables.lean ====
section
/-! DEFINITION. The entries of the configuration record TABLES and of SHIFTS, in the reading order of the spec. The six
tables are the standard DES tables, from general knowledge and not from the source (92_eei_decisions.md D36; log 14). -/

namespace Sys2Proof.Machine

/-- PC1 (41_key_schedule.md R121). -/
def tablePC1 : Vector Nat 56 := #v[
  57, 49, 41, 33, 25, 17,  9,
   1, 58, 50, 42, 34, 26, 18,
  10,  2, 59, 51, 43, 35, 27,
  19, 11,  3, 60, 52, 44, 36,
  63, 55, 47, 39, 31, 23, 15,
   7, 62, 54, 46, 38, 30, 22,
  14,  6, 61, 53, 45, 37, 29,
  21, 13,  5, 28, 20, 12,  4]

/-- PC2 (41_key_schedule.md R123). -/
def tablePC2 : Vector Nat 48 := #v[
  14, 17, 11, 24,  1,  5,
   3, 28, 15,  6, 21, 10,
  23, 19, 12,  4, 26,  8,
  16,  7, 27, 20, 13,  2,
  41, 52, 31, 37, 47, 55,
  30, 40, 51, 45, 33, 48,
  44, 49, 39, 56, 34, 53,
  46, 42, 50, 36, 29, 32]

/-- E (42_feistel.md R141). -/
def tableE : Vector Nat 48 := #v[
  32,  1,  2,  3,  4,  5,
   4,  5,  6,  7,  8,  9,
   8,  9, 10, 11, 12, 13,
  12, 13, 14, 15, 16, 17,
  16, 17, 18, 19, 20, 21,
  20, 21, 22, 23, 24, 25,
  24, 25, 26, 27, 28, 29,
  28, 29, 30, 31, 32,  1]

/-- P (42_feistel.md R143). -/
def tableP : Vector Nat 32 := #v[
  16,  7, 20, 21, 29, 12, 28, 17,
   1, 15, 23, 26,  5, 18, 31, 10,
   2,  8, 24, 14, 32, 27,  3,  9,
  19, 13, 30,  6, 22, 11,  4, 25]

/-- IP (43_block_transform.md R160). -/
def tableIP : Vector Nat 64 := #v[
  58, 50, 42, 34, 26, 18, 10,  2,
  60, 52, 44, 36, 28, 20, 12,  4,
  62, 54, 46, 38, 30, 22, 14,  6,
  64, 56, 48, 40, 32, 24, 16,  8,
  57, 49, 41, 33, 25, 17,  9,  1,
  59, 51, 43, 35, 27, 19, 11,  3,
  61, 53, 45, 37, 29, 21, 13,  5,
  63, 55, 47, 39, 31, 23, 15,  7]

/-- FP (43_block_transform.md R161). -/
def tableFP : Vector Nat 64 := #v[
  40,  8, 48, 16, 56, 24, 64, 32,
  39,  7, 47, 15, 55, 23, 63, 31,
  38,  6, 46, 14, 54, 22, 62, 30,
  37,  5, 45, 13, 53, 21, 61, 29,
  36,  4, 44, 12, 52, 20, 60, 28,
  35,  3, 43, 11, 51, 19, 59, 27,
  34,  2, 42, 10, 50, 18, 58, 26,
  33,  1, 41,  9, 49, 17, 57, 25]

/-- The core's TABLES (00_scope.md R8). -/
def tables : Tables where
  pc1 := tablePC1
  pc2 := tablePC2
  e := tableE
  p := tableP
  ip := tableIP
  fp := tableFP

/-- SHIFTS, the left-rotation counts of rounds 1 to 16 (41_key_schedule.md R122). -/
def shifts : List Nat := [1, 1, 2, 2, 2, 2, 2, 2, 1, 2, 2, 2, 2, 2, 2, 1]

/-- Every entry lies in 1..n, which a table needs to be applied to a sequence of length n (40_bitvector.md R104). -/
def entriesIn {m : Nat} (n : Nat) (t : Vector Nat m) : Bool := t.toList.all fun x => decide (1 ≤ x ∧ x ≤ n)

/-- Every table fits its input: PC1 and IP and FP 64 bits, PC2 56, E and P 32 (10_state.md R44; R121, R123, R141, R143,
R160, R161). -/
def tablesInRange (T : Tables) : Bool :=
  entriesIn 64 T.pc1 && entriesIn 56 T.pc2 && entriesIn 32 T.e && entriesIn 32 T.p && entriesIn 64 T.ip &&
    entriesIn 64 T.fp

end Sys2Proof.Machine
end

