-- ==== Sys2Proof/Machine/Feistel.lean ====
section
/-! DEFINITION. The feistel_round_unit (42_feistel.md). -/

namespace Sys2Proof.Machine

/-- `nibble = ((v * (i + 1)) XOR (v >> 2)) & 0xF` (R142), over unbounded unsigned integers. -/
def nibble (i v : Nat) : BitVec 4 := BitVec.ofNat 4 (((v * (i + 1)) ^^^ (v >>> 2)) &&& 0xF)

/-- Group i of a 48-bit sequence, positions 6i+1..6i+6 read most significant first (R142, R101), for i in 0..7. -/
def sixBits (x : BitVec 48) (i : Nat) : Nat := toInt (x.extractLsb' (42 - 6 * i) 6)

/-- The substitution S (R142): positions 4i+1..4i+4 are the nibble of group i, most significant bit first. -/
def substitute (x : BitVec 48) : BitVec 32 :=
  seqOf 32 fun j => (nibble ((j - 1) / 4) (sixBits x ((j - 1) / 4))).getLsbD (3 - (j - 1) % 4)

/-- `F(R, K)` (R145): expand, mix the key, substitute, permute. -/
def roundFunction (T : Tables) (r : Half) (k : RoundKey) : Half :=
  let e := perm r T.e
  let x := e ^^^ k
  perm (substitute x) T.p

/-- ROUND_F (R147): DOUT gets F(DIN[31:0], RK(ARG+1)), zero-extended. -/
def execRoundF (arg : BitVec 4) (s : State) : Host.Outcome State Fault Refusal :=
  .next (complete
    { s with dout := (roundFunction tables (halfOperand s) (roundKeyOperand arg s)).setWidth 64 })

end Sys2Proof.Machine
end

