-- ==== Sys2Proof/Machine/BlockTransform.lean ====
section
/-! DEFINITION. The block_transform_engine (43_block_transform.md). -/

namespace Sys2Proof.Machine

/-- One round (R162): the new right half is L XOR F(R, k), the new left half the old R, both from the halves of before
the round. -/
def feistelRound (T : Tables) (lr : Half × Half) (k : RoundKey) : Half × Half :=
  (lr.2, lr.1 ^^^ roundFunction T lr.2 k)

/-- The halves after the rounds with these keys, in the supplied order (R162). -/
def feistelRounds (T : Tables) (keys : List RoundKey) (lr : Half × Half) : Half × Half :=
  keys.foldl (feistelRound T) lr

/-- `BT(B, k)` (R162): IP, the rounds, and FP of the pre-output R ‖ L (R163). -/
def blockTransform (T : Tables) (block : Word) (keys : List RoundKey) : Word :=
  let t := perm block T.ip
  let lr := feistelRounds T keys (leftHalf t, rightHalf t)
  perm (joinHalves lr.2 lr.1) T.fp

/-- BT_FWD (R166). -/
def execBtFwd (s : State) : Host.Outcome State Fault Refusal :=
  .next (complete (leaveTransform { s with dout := blockTransform tables s.din (keysFwd s.rk) }))

/-- BT_REV (R167). -/
def execBtRev (s : State) : Host.Outcome State Fault Refusal :=
  .next (complete (leaveTransform { s with dout := blockTransform tables s.din (keysRev s.rk) }))

end Sys2Proof.Machine
end

