-- ==== Sys2Proof/Machine/Cbc.lean ====
section
/-! DEFINITION. The cbc_chaining_codec (44_cbc.md): its five commands. -/

namespace Sys2Proof.Machine

/-- CBC_START (R181): CHAIN gets IV, and the fields of the pass are cleared. -/
def execCbcStart (s : State) : Host.Outcome State Fault Refusal :=
  .next (complete
    { s with chain := s.iv, decSeen := false, truncWarn := false, padWarn := false, padlen := 0#4 })

/-- Encrypt one block of plaintext and chain (R183, R184): the old CHAIN is read before the new one is written. -/
def encryptAndChain (block : Word) (s : State) : State :=
  let out := blockTransform tables (block ^^^ s.chain) (keysFwd s.rk)
  complete (leaveTransform { s with dout := out, chain := out })

/-- CBC_ENC (R183). -/
def execCbcEnc (s : State) : Host.Outcome State Fault Refusal :=
  .next (encryptAndChain s.din s)

/-- CBC_ENC_FINAL (R184): DIN itself is unchanged. -/
def execCbcEncFinal (n : BitVec 4) (s : State) : Host.Outcome State Fault Refusal :=
  .next (encryptAndChain (padBlock s.din (argValue n)) s)

/-- CBC_DEC (R186): the old CHAIN is XORed before the new one, the ciphertext block, is written. -/
def execCbcDec (s : State) : Host.Outcome State Fault Refusal :=
  .next (complete (leaveTransform
    { s with
      dout := blockTransform tables s.din (keysRev s.rk) ^^^ s.chain
      chain := s.din
      decSeen := true }))

/-- CBC_DEC_END (R187): TRUNC_WARN is only ever set here; PAD_WARN and PADLEN report the check of DOUT, which is made
only when a block was recovered (R33). -/
def execCbcDecEnd (tail : BitVec 4) (s : State) : Host.Outcome State Fault Refusal :=
  let s1 := { s with truncWarn := s.truncWarn || decide (argValue tail ≠ 0) }
  if s.decSeen then
    .next (complete { s1 with padlen := padlenOf (padCheck s.dout), padWarn := !(padCheck s.dout).1 })
  else
    .next (complete { s1 with padlen := 0#4 })

end Sys2Proof.Machine
end

