-- ==== Sys2Proof/Machine/Control.lean ====
section
/-! DEFINITION. The control commands and the host's bus accesses (45_control.md). -/

namespace Sys2Proof.Machine

/-! ## Control commands -/

/-- NOP (R220): no state changes but for its completion. -/
def execNop (s : State) : Host.Outcome State Fault Refusal :=
  .next (complete s)

/-- SOFT_RESET (R221): the reset action. It is performed at the bus write of its word, which `submit` does by the same
operation (60_exceptions.md R245 step 1). -/
def execSoftReset (s : State) : Host.Outcome State Fault Refusal :=
  .next (resetAction s)

/-! ## Host writes -/

/-- `wr CMD` (R222): submit a command word. CMD stores nothing. -/
def execWrCmd (v : Word) (s : State) : Host.Outcome State Fault Refusal :=
  .next (submit v s)

/-- `wr KEY` (R223): a new key ends the session. -/
def execWrKey (v : Word) (s : State) : Host.Outcome State Fault Refusal :=
  .next (writeData (fun t => { t with key := v, ksValid := false }) s)

/-- `wr IV` (R224). -/
def execWrIv (v : Word) (s : State) : Host.Outcome State Fault Refusal :=
  .next (writeData (fun t => { t with iv := v }) s)

/-- `wr DIN` (R224). -/
def execWrDin (v : Word) (s : State) : Host.Outcome State Fault Refusal :=
  .next (writeData (fun t => { t with din := v }) s)

/-- `wr STATUS`: a read-only register (R226). -/
def execWrStatus (v : Word) (s : State) : Host.Outcome State Fault Refusal :=
  .next (writeIgnored v s)

/-- `wr DOUT`: a read-only register (R226). -/
def execWrDout (v : Word) (s : State) : Host.Outcome State Fault Refusal :=
  .next (writeIgnored v s)

/-- `wr CHAIN`: a read-only register (R226). -/
def execWrChain (v : Word) (s : State) : Host.Outcome State Fault Refusal :=
  .next (writeIgnored v s)

/-- `wr RK1`: a read-only register (R226). -/
def execWrRk1 (v : Word) (s : State) : Host.Outcome State Fault Refusal :=
  .next (writeIgnored v s)

/-- `wr RK2`: a read-only register (R226). -/
def execWrRk2 (v : Word) (s : State) : Host.Outcome State Fault Refusal :=
  .next (writeIgnored v s)

/-- `wr RK3`: a read-only register (R226). -/
def execWrRk3 (v : Word) (s : State) : Host.Outcome State Fault Refusal :=
  .next (writeIgnored v s)

/-- `wr RK4`: a read-only register (R226). -/
def execWrRk4 (v : Word) (s : State) : Host.Outcome State Fault Refusal :=
  .next (writeIgnored v s)

/-- `wr RK5`: a read-only register (R226). -/
def execWrRk5 (v : Word) (s : State) : Host.Outcome State Fault Refusal :=
  .next (writeIgnored v s)

/-- `wr RK6`: a read-only register (R226). -/
def execWrRk6 (v : Word) (s : State) : Host.Outcome State Fault Refusal :=
  .next (writeIgnored v s)

/-- `wr RK7`: a read-only register (R226). -/
def execWrRk7 (v : Word) (s : State) : Host.Outcome State Fault Refusal :=
  .next (writeIgnored v s)

/-- `wr RK8`: a read-only register (R226). -/
def execWrRk8 (v : Word) (s : State) : Host.Outcome State Fault Refusal :=
  .next (writeIgnored v s)

/-- `wr RK9`: a read-only register (R226). -/
def execWrRk9 (v : Word) (s : State) : Host.Outcome State Fault Refusal :=
  .next (writeIgnored v s)

/-- `wr RK10`: a read-only register (R226). -/
def execWrRk10 (v : Word) (s : State) : Host.Outcome State Fault Refusal :=
  .next (writeIgnored v s)

/-- `wr RK11`: a read-only register (R226). -/
def execWrRk11 (v : Word) (s : State) : Host.Outcome State Fault Refusal :=
  .next (writeIgnored v s)

/-- `wr RK12`: a read-only register (R226). -/
def execWrRk12 (v : Word) (s : State) : Host.Outcome State Fault Refusal :=
  .next (writeIgnored v s)

/-- `wr RK13`: a read-only register (R226). -/
def execWrRk13 (v : Word) (s : State) : Host.Outcome State Fault Refusal :=
  .next (writeIgnored v s)

/-- `wr RK14`: a read-only register (R226). -/
def execWrRk14 (v : Word) (s : State) : Host.Outcome State Fault Refusal :=
  .next (writeIgnored v s)

/-- `wr RK15`: a read-only register (R226). -/
def execWrRk15 (v : Word) (s : State) : Host.Outcome State Fault Refusal :=
  .next (writeIgnored v s)

/-- `wr RK16`: a read-only register (R226). -/
def execWrRk16 (v : Word) (s : State) : Host.Outcome State Fault Refusal :=
  .next (writeIgnored v s)

/-! ## Host reads (R227) -/

/-- `rd CMD`: reads 0 (20_memory.md R56). -/
def execRdCmd (s : State) : Host.Outcome State Fault Refusal :=
  .next (readExact 0#5 0#64 s)

/-- `rd STATUS`: open in part while BUSY = 1 (R61). -/
def execRdStatus (s : State) : Host.Outcome State Fault Refusal :=
  .next (readStatus 1#5 s)

/-- `rd KEY`: exact. -/
def execRdKey (s : State) : Host.Outcome State Fault Refusal :=
  .next (readExact 2#5 s.key s)

/-- `rd IV`: exact. -/
def execRdIv (s : State) : Host.Outcome State Fault Refusal :=
  .next (readExact 3#5 s.iv s)

/-- `rd DIN`: exact. -/
def execRdDin (s : State) : Host.Outcome State Fault Refusal :=
  .next (readExact 4#5 s.din s)

/-- `rd DOUT`: open while BUSY = 1 (R61). -/
def execRdDout (s : State) : Host.Outcome State Fault Refusal :=
  .next (readResult 5#5 s.dout s)

/-- `rd CHAIN`: open while BUSY = 1 (R61). -/
def execRdChain (s : State) : Host.Outcome State Fault Refusal :=
  .next (readResult 6#5 s.chain s)

/-- `rd RK1`: open while BUSY = 1 (R61). -/
def execRdRk1 (s : State) : Host.Outcome State Fault Refusal :=
  .next (readRoundKey 1 s)

/-- `rd RK2`: open while BUSY = 1 (R61). -/
def execRdRk2 (s : State) : Host.Outcome State Fault Refusal :=
  .next (readRoundKey 2 s)

/-- `rd RK3`: open while BUSY = 1 (R61). -/
def execRdRk3 (s : State) : Host.Outcome State Fault Refusal :=
  .next (readRoundKey 3 s)

/-- `rd RK4`: open while BUSY = 1 (R61). -/
def execRdRk4 (s : State) : Host.Outcome State Fault Refusal :=
  .next (readRoundKey 4 s)

/-- `rd RK5`: open while BUSY = 1 (R61). -/
def execRdRk5 (s : State) : Host.Outcome State Fault Refusal :=
  .next (readRoundKey 5 s)

/-- `rd RK6`: open while BUSY = 1 (R61). -/
def execRdRk6 (s : State) : Host.Outcome State Fault Refusal :=
  .next (readRoundKey 6 s)

/-- `rd RK7`: open while BUSY = 1 (R61). -/
def execRdRk7 (s : State) : Host.Outcome State Fault Refusal :=
  .next (readRoundKey 7 s)

/-- `rd RK8`: open while BUSY = 1 (R61). -/
def execRdRk8 (s : State) : Host.Outcome State Fault Refusal :=
  .next (readRoundKey 8 s)

/-- `rd RK9`: open while BUSY = 1 (R61). -/
def execRdRk9 (s : State) : Host.Outcome State Fault Refusal :=
  .next (readRoundKey 9 s)

/-- `rd RK10`: open while BUSY = 1 (R61). -/
def execRdRk10 (s : State) : Host.Outcome State Fault Refusal :=
  .next (readRoundKey 10 s)

/-- `rd RK11`: open while BUSY = 1 (R61). -/
def execRdRk11 (s : State) : Host.Outcome State Fault Refusal :=
  .next (readRoundKey 11 s)

/-- `rd RK12`: open while BUSY = 1 (R61). -/
def execRdRk12 (s : State) : Host.Outcome State Fault Refusal :=
  .next (readRoundKey 12 s)

/-- `rd RK13`: open while BUSY = 1 (R61). -/
def execRdRk13 (s : State) : Host.Outcome State Fault Refusal :=
  .next (readRoundKey 13 s)

/-- `rd RK14`: open while BUSY = 1 (R61). -/
def execRdRk14 (s : State) : Host.Outcome State Fault Refusal :=
  .next (readRoundKey 14 s)

/-- `rd RK15`: open while BUSY = 1 (R61). -/
def execRdRk15 (s : State) : Host.Outcome State Fault Refusal :=
  .next (readRoundKey 15 s)

/-- `rd RK16`: open while BUSY = 1 (R61). -/
def execRdRk16 (s : State) : Host.Outcome State Fault Refusal :=
  .next (readRoundKey 16 s)

end Sys2Proof.Machine
end

