-- ==== Sys2Proof/Machine/KeySchedule.lean ====
section
/-! DEFINITION. The key_schedule_engine (41_key_schedule.md). -/

namespace Sys2Proof.Machine

/-- The overwrite, step 3 of R124: positions 1..28 get 0,1,0,1,... and positions 29..56 get 1,0,1,0,.... The permuted key
is discarded, on purpose (R126). -/
def overwrite (_permuted : BitVec 56) : BitVec 56 :=
  seqOf 56 fun i => if i ≤ 28 then (i - 1) % 2 == 1 else i % 2 == 1

/-- Step 5 of R124 over the remaining shift counts: rotate both halves, cut a round key from their concatenation.
Answers the round keys in order and the last halves. -/
def scheduleRounds (T : Tables) : List Nat → KeyHalf → KeyHalf → List RoundKey × KeyHalf × KeyHalf
  | [], c, d => ([], c, d)
  | k :: ks, c, d =>
    let c' := rotl c k
    let d' := rotl d k
    let rest := scheduleRounds T ks c' d'
    (perm (joinKeyHalves c' d') T.pc2 :: rest.1, rest.2)

/-- The halves C and D before any rotation: steps 1 to 4 of R124. -/
def initialHalves (T : Tables) (key : Word) : KeyHalf × KeyHalf :=
  let s := bitsFromInteger key.toNat 64
  let p := overwrite (perm s T.pc1)
  (leftKeyHalf p, rightKeyHalf p)

/-- The whole of R124: the round keys K1..K16 and the last halves. -/
def keyScheduleRun (T : Tables) (key : Word) : List RoundKey × KeyHalf × KeyHalf :=
  scheduleRounds T shifts (initialHalves T key).1 (initialHalves T key).2

/-- `KS(key)`, the list K1..K16 (R124). -/
def keySchedule (T : Tables) (key : Word) : List RoundKey := (keyScheduleRun T key).1

/-- The register file that holds K1..K16 in production order (R127, R129). -/
def keyFile (T : Tables) (key : Word) : KeyFile := Vector.ofFn fun r => (keySchedule T key).getD r.val 0#48

/-- KSCHED (R127): derive the round key file from KEY. -/
def execKsched (s : State) : Host.Outcome State Fault Refusal :=
  .next (complete
    { s with
      rk := keyFile tables s.key
      ksValid := true
      c := (keyScheduleRun tables s.key).2.1
      d := (keyScheduleRun tables s.key).2.2 })

end Sys2Proof.Machine
end

