-- ==== Sys2Proof/Machine/Dispatch.lean ====
section
/-! DEFINITION. The dispatch: one arm for each row of the opcode table. -/

namespace Sys2Proof.Machine

def exec (i : Instr) (s : State) : Host.Outcome State Fault Refusal :=
  match i with
  | .nop => Sys2Proof.Machine.execNop s
  | .ksched => Sys2Proof.Machine.execKsched s
  | .cbcStart => Sys2Proof.Machine.execCbcStart s
  | .btFwd => Sys2Proof.Machine.execBtFwd s
  | .btRev => Sys2Proof.Machine.execBtRev s
  | .roundF arg => Sys2Proof.Machine.execRoundF arg s
  | .cbcEnc => Sys2Proof.Machine.execCbcEnc s
  | .cbcEncFinal n => Sys2Proof.Machine.execCbcEncFinal n s
  | .cbcDec => Sys2Proof.Machine.execCbcDec s
  | .cbcDecEnd tail => Sys2Proof.Machine.execCbcDecEnd tail s
  | .softReset => Sys2Proof.Machine.execSoftReset s
  | .wrCmd v => Sys2Proof.Machine.execWrCmd v s
  | .wrStatus v => Sys2Proof.Machine.execWrStatus v s
  | .wrKey v => Sys2Proof.Machine.execWrKey v s
  | .wrIv v => Sys2Proof.Machine.execWrIv v s
  | .wrDin v => Sys2Proof.Machine.execWrDin v s
  | .wrDout v => Sys2Proof.Machine.execWrDout v s
  | .wrChain v => Sys2Proof.Machine.execWrChain v s
  | .wrRk1 v => Sys2Proof.Machine.execWrRk1 v s
  | .wrRk2 v => Sys2Proof.Machine.execWrRk2 v s
  | .wrRk3 v => Sys2Proof.Machine.execWrRk3 v s
  | .wrRk4 v => Sys2Proof.Machine.execWrRk4 v s
  | .wrRk5 v => Sys2Proof.Machine.execWrRk5 v s
  | .wrRk6 v => Sys2Proof.Machine.execWrRk6 v s
  | .wrRk7 v => Sys2Proof.Machine.execWrRk7 v s
  | .wrRk8 v => Sys2Proof.Machine.execWrRk8 v s
  | .wrRk9 v => Sys2Proof.Machine.execWrRk9 v s
  | .wrRk10 v => Sys2Proof.Machine.execWrRk10 v s
  | .wrRk11 v => Sys2Proof.Machine.execWrRk11 v s
  | .wrRk12 v => Sys2Proof.Machine.execWrRk12 v s
  | .wrRk13 v => Sys2Proof.Machine.execWrRk13 v s
  | .wrRk14 v => Sys2Proof.Machine.execWrRk14 v s
  | .wrRk15 v => Sys2Proof.Machine.execWrRk15 v s
  | .wrRk16 v => Sys2Proof.Machine.execWrRk16 v s
  | .rdCmd => Sys2Proof.Machine.execRdCmd s
  | .rdStatus => Sys2Proof.Machine.execRdStatus s
  | .rdKey => Sys2Proof.Machine.execRdKey s
  | .rdIv => Sys2Proof.Machine.execRdIv s
  | .rdDin => Sys2Proof.Machine.execRdDin s
  | .rdDout => Sys2Proof.Machine.execRdDout s
  | .rdChain => Sys2Proof.Machine.execRdChain s
  | .rdRk1 => Sys2Proof.Machine.execRdRk1 s
  | .rdRk2 => Sys2Proof.Machine.execRdRk2 s
  | .rdRk3 => Sys2Proof.Machine.execRdRk3 s
  | .rdRk4 => Sys2Proof.Machine.execRdRk4 s
  | .rdRk5 => Sys2Proof.Machine.execRdRk5 s
  | .rdRk6 => Sys2Proof.Machine.execRdRk6 s
  | .rdRk7 => Sys2Proof.Machine.execRdRk7 s
  | .rdRk8 => Sys2Proof.Machine.execRdRk8 s
  | .rdRk9 => Sys2Proof.Machine.execRdRk9 s
  | .rdRk10 => Sys2Proof.Machine.execRdRk10 s
  | .rdRk11 => Sys2Proof.Machine.execRdRk11 s
  | .rdRk12 => Sys2Proof.Machine.execRdRk12 s
  | .rdRk13 => Sys2Proof.Machine.execRdRk13 s
  | .rdRk14 => Sys2Proof.Machine.execRdRk14 s
  | .rdRk15 => Sys2Proof.Machine.execRdRk15 s
  | .rdRk16 => Sys2Proof.Machine.execRdRk16 s

end Sys2Proof.Machine
end

