-- ==== Sys2Proof/Machine/Turns.lean ====
section
/-! DEFINITION. The turns of the host, of the reset input and of the engine (10_state.md R20, R40), and the placing of a
code where the next step takes it from. -/

namespace Sys2Proof.Machine

/-- The engine's turn (R40): it performs the command in PEND, and does nothing when PEND holds none. It makes no check of
its own (60_exceptions.md R247). -/
def engineTurn (s : State) : Host.Outcome State Fault Refusal :=
  match s.pend with
  | none => .next s
  | some w =>
    match decodeCommand w with
    | .instr i => exec i s
    | .reject _ => .refused .illegalPending

/-- The host's turn: one bus access (20_memory.md R50, R51). A reserved offset has no row in the opcode table and is
handled here (R55, R56; log 18). -/
def hostTurn (a : Access) (s : State) : Host.Outcome State Fault Refusal :=
  match decodeAccess a with
  | .instr i => exec i s
  | .reject _ => .next (reservedAccess a s)

/-- One turn of an agent. -/
def takeTurn (turn : Turn) (s : State) : Host.Outcome State Fault Refusal :=
  match turn with
  | .access a => hostTurn a s
  | .reset => .next (resetAction s)
  | .engine => engineTurn s

/-- The next turn is the schedule's; when the schedule is used up the engine takes it, so that an accepted command
that no reset abandons completes (70_reset_and_hazards.md R278; log 2). -/
def nextTurn (s : State) : Host.Outcome State Fault Refusal :=
  match s.schedule with
  | [] => engineTurn s
  | turn :: rest => takeTurn turn { s with schedule := rest }

/-- Place a code so that the next step takes it (log 24): a bus access becomes the schedule's next turn. A legal command
word other than SOFT_RESET is put where an acceptance puts it, with the engine's turn next. SOFT_RESET is performed at
the bus write itself (45_control.md R221), and an illegal word is only ever written to CMD, so both become that write. -/
def placeCode (code : Code) (s : State) : State :=
  match code with
  | .bus a => { s with schedule := .access a :: s.schedule }
  | .command w =>
    match decodeCommand w with
    | .instr i =>
      if i = .softReset then { s with schedule := .access (.write 0#5 w) :: s.schedule }
      else { accept w s with schedule := .engine :: s.schedule }
    | .reject _ => { s with schedule := .access (.write 0#5 w) :: s.schedule }

end Sys2Proof.Machine
end

