-- ==== Sys2Proof/Machine/Step.lean ====
section
/-! DEFINITION. One step of the machine. -/

namespace Sys2Proof.Machine

/-- One step: the next turn, on a core whose configured tables fit their inputs (40_bitvector.md R104, U12; log 15). -/
def step (s : State) : Host.Outcome State Fault Refusal :=
  if tablesInRange tables then nextTurn s else .fault .tableOutOfRange

/-- The state with the code of a row of the opcode table where the next step takes it from (logs 17, 24). -/
def State.withFetchWord (s : State) (nbits w : Nat) : State :=
  match codeOfTableWord nbits w with
  | some c => placeCode c s
  | none => s

end Sys2Proof.Machine
end

