-- ==== Sys2Proof/Machine/Codec.lean ====
section
/-! DEFINITION. The message-level codec (44_cbc.md R185, R188, R189), which the source defines over whole byte sequences.
The core keeps no message; the host's drivers in Machine/HostProgram.lean realise these functions with commands. -/

namespace Sys2Proof.Machine

/-- The whole blocks of a byte sequence, in stream order; a part block at the end is left out. -/
def wholeBlocks (m : List Byte) : List Word := (List.range (m.length / 8)).map fun i => bitsFromBytes m (8 * i)

/-- The number of padding bytes for a message of length `len`: 8 - (len mod 8), in 1..8 (R185). -/
def paddingCount (len : Nat) : Nat := 8 - len % 8

/-- The padded message (R188 step 1). -/
def padMessage (m : List Byte) : List Byte :=
  m ++ List.replicate (paddingCount m.length) (BitVec.ofNat 8 (paddingCount m.length))

/-- CBC encryption of blocks from the chaining value `ch` (R188 step 3). -/
def cbcEncryptBlocks (T : Tables) (rk : KeyFile) (ch : Word) : List Word → List Word
  | [] => []
  | b :: bs =>
    let c := blockTransform T (b ^^^ ch) (keysFwd rk)
    c :: cbcEncryptBlocks T rk c bs

/-- CBC decryption of blocks from the chaining value `ch` (R189 step 2). -/
def cbcDecryptBlocks (T : Tables) (rk : KeyFile) (ch : Word) : List Word → List Word
  | [] => []
  | c :: cs => (blockTransform T c (keysRev rk) ^^^ ch) :: cbcDecryptBlocks T rk c cs

/-- `Encrypt(M, iv)` (R188), with the round keys in `rk`. -/
def encryptMessage (T : Tables) (rk : KeyFile) (m : List Byte) (iv : Word) : List Byte :=
  (cbcEncryptBlocks T rk iv (wholeBlocks (padMessage m))).flatMap bytesFromBits64

/-- What `Decrypt` answers: the bytes and the two warnings (R189). -/
structure Decrypted where
  bytes     : List Byte
  truncWarn : Bool
  padWarn   : Bool
  deriving DecidableEq, Repr

/-- The last byte of a stream is a valid padding value p and the last p bytes all equal it (R189 step 3). -/
def validPadding (out : List Byte) : Bool :=
  let p := out.getD (out.length - 1) 0#8
  decide (1 ≤ p.toNat ∧ p.toNat ≤ 8) && (out.drop (out.length - p.toNat)).all (· == p)

/-- `Decrypt(X, iv)` (R189), with the round keys in `rk`. -/
def decryptMessage (T : Tables) (rk : KeyFile) (x : List Byte) (iv : Word) : Decrypted :=
  let out := (cbcDecryptBlocks T rk iv (wholeBlocks x)).flatMap bytesFromBits64
  let trunc := decide (x.length % 8 ≠ 0)
  if out.isEmpty then { bytes := out, truncWarn := trunc, padWarn := false }
  else if validPadding out then
    { bytes := out.take (out.length - (out.getD (out.length - 1) 0#8).toNat), truncWarn := trunc, padWarn := false }
  else { bytes := out, truncWarn := trunc, padWarn := true }

end Sys2Proof.Machine
end

