-- ==== Sys2Proof/Machine/HostProgram.lean ====
section
/-! DEFINITION. The host's side: its program syntax and pseudo-operations (30_encoding.md R86, R87) and the two drivers
(44_cbc.md R190, R191), as schedules. -/

namespace Sys2Proof.Machine

/-- One line of a host program (R86, R87). -/
inductive HostLine where
  /-- `wr REG, v`. -/
  | wr (index : PortIndex) (v : Word)
  /-- `rd REG`. -/
  | rd (index : PortIndex)
  /-- `cmd MNEMONIC[, A]`. -/
  | cmd (i : Instr)
  /-- `wait`. -/
  | wait
  /-- `run MNEMONIC[, A]`. -/
  | run (i : Instr)
  /-- `expect REG, v`. -/
  | expect (index : PortIndex) (v : Word)
  deriving DecidableEq, Repr

/-- The turns of `cmd i`: the write of its word to CMD (R86). An instruction that is itself a bus access is made. -/
def cmdTurns (i : Instr) : List Turn :=
  match encode i with
  | .command w => [.access (.write 0#5 w)]
  | .bus a => [.access a]

/-- The turns of `wait` (R87), the loop of STATUS reads until BUSY = 0: `busyReads` reads that still find the command in
flight, the engine's turn, and the last read. The number is the open parameter LATENCY seen by the host (log 19); it is
0 where no command is in flight. -/
def waitTurns (busyReads : Nat) : List Turn :=
  List.replicate busyReads (.access (.read 1#5)) ++ [.engine, .access (.read 1#5)]

/-- The turns of a line. `expect` is a read and a check on the host's side (R87), which is `expectMet`. -/
def lineTurns (busyReads : Nat) : HostLine → List Turn
  | .wr index v => [.access (.write index v)]
  | .rd index => [.access (.read index)]
  | .cmd i => cmdTurns i
  | .wait => waitTurns busyReads
  | .run i => cmdTurns i ++ waitTurns busyReads
  | .expect index _ => [.access (.read index)]

/-- The schedule of a program whose first line is line number `n`, when the wait of line j makes `latency j` reads before
its command completes. -/
def programTurns (latency : Nat → Nat) (n : Nat) : List HostLine → List Turn
  | [] => []
  | line :: rest => lineTurns (latency n) line ++ programTurns latency (n + 1) rest

/-- The host-side check of `expect REG, v`: the last value read is v, from that register (R87). -/
def expectMet (index : PortIndex) (v : Word) (s : State) : Bool := s.received.head? == some (index, v)

/-- The blocks the host has read from DOUT so far, oldest first. -/
def doutReads (s : State) : List Word := (s.received.reverse.filter fun x => x.1 == 5#5).map Prod.snd

/-- The last bytes of M, fewer than eight, in b0..b_{n-1}, and the bytes of `fill` after them (R190, U14). -/
def lastBlock (m : List Byte) (fill : Word) : Word :=
  blockOf fun k => if k < m.length % 8 then m.getD (8 * (m.length / 8) + k) 0#8 else blockByte fill k

/-- The boot order (70_reset_and_hazards.md R273): load the key, derive the round keys, write the IV, start the chain. A
host that keeps IV = 0 may leave out the third line. -/
def bootProgram (key iv : Word) : List HostLine := [.wr 2#5 key, .run .ksched, .wr 3#5 iv, .run .cbcStart]

/-- Feed one block and read the result: `wr DIN`, `run` and `rd DOUT` (R190, R191). -/
def feedBlock (i : Instr) (block : Word) : List HostLine := [.wr 4#5 block, .run i, .rd 5#5]

/-- The encrypt driver (R190). -/
def encryptProgram (m : List Byte) (fill : Word) : List HostLine :=
  [.wait, .run .cbcStart] ++ (wholeBlocks m).flatMap (feedBlock .cbcEnc) ++
    feedBlock (.cbcEncFinal (BitVec.ofNat 4 (m.length % 8))) (lastBlock m fill)

/-- The decrypt driver (R191). -/
def decryptProgram (x : List Byte) : List HostLine :=
  [.run .cbcStart] ++ (wholeBlocks x).flatMap (feedBlock .cbcDec) ++
    [.run (.cbcDecEnd (BitVec.ofNat 4 (x.length % 8))), .rd 1#5]

/-- What the decrypt driver's host makes of the recovered blocks and the last STATUS read: the blocks concatenated, less
the last PADLEN bytes, and the two warning bits (R191). -/
def decryptResult (blocks : List Word) (status : Word) : Decrypted :=
  let bytes := blocks.flatMap bytesFromBits64
  { bytes := bytes.take (bytes.length - (status.extractLsb' 16 4).toNat)
    truncWarn := status.getLsbD 8
    padWarn := status.getLsbD 9 }

end Sys2Proof.Machine
end

