-- ==== Sys2Proof/Safety.lean ====
section
/-! DEFINITION. What a claim about a run may rest on: the end of a run, the fatal state, and the invariant that every step
keeps. -/

namespace Sys2Proof.Machine

/-- The turn is a bus access of the host. -/
def Turn.isAccess : Turn → Bool
  | .access _ => true
  | .reset => false
  | .engine => false

/-- The host has made its last bus access. A reset or an engine turn may still follow. -/
def State.hostDone (s : State) : Bool := s.schedule.all fun turn => !turn.isAccess

/-- The host has made its last bus access and PEND holds nothing; the run ends in the first such state
(70_reset_and_hazards.md R279), which `State.endOfRun` answers. -/
def State.runEnded (s : State) : Bool := s.hostDone && !s.busy

/-- Steps until the run has ended, at most `fuel` of them. -/
def runToEnd : Nat → State → Host.Outcome State Fault Refusal
  | 0, s => .next s
  | fuel + 1, s =>
    if s.runEnded then .next s
    else
      match step s with
      | .next t => runToEnd fuel t
      | .fault why => .fault why
      | .refused why => .refused why

/-- The end of a host program's run (R279): the first state in which the host has made its last access and PEND holds
nothing. What follows it, a reset among it, is no part of the run. One step for each turn and one more are enough. -/
def State.endOfRun (s : State) : Host.Outcome State Fault Refusal := runToEnd (s.schedule.length + 1) s

/-- For the end of a run: it ended without a fatal error. With ERR = 1 the run ended in a fault (R279, 60_exceptions.md
R246). -/
def State.safeEnd (s : State) : Bool := s.runEnded && !s.err

/-- `t` is `s` in every piece of the core's state; only the model's own fields (what the host has read, its schedule, the
count of draws) may differ. -/
def State.sameCore (s t : State) : Prop :=
  t = { s with schedule := t.schedule, received := t.received, draws := t.draws }

/-- PEND holds nothing, or a legal command other than SOFT_RESET, and a keyed one only with KS_VALID (60_exceptions.md
R242, R244, R245). -/
def State.pendLegal (s : State) : Prop :=
  ∀ w, s.pend = some w → ∃ i, decodeCommand w = .instr i ∧ i ≠ .softReset ∧ (isKeyed i = true → s.ksValid = true)

/-- While KS_VALID = 1 the key file holds the schedule of KEY (10_state.md R31, R43) and C and D are as KSCHED leaves them
(R38). -/
def State.sessionHolds (s : State) : Prop :=
  s.ksValid = true → s.rk = keyFile tables s.key ∧ s.c = 0x5555555#28 ∧ s.d = 0xAAAAAAA#28

/-- PADLEN is at most 8 (R36), and 0 while PAD_WARN is set (R29, 44_cbc.md R187). -/
def State.paddingHolds (s : State) : Prop := s.padlen.toNat ≤ 8 ∧ (s.padWarn = true → s.padlen = 0#4)

/-- The invariant of the core. -/
structure State.Inv (s : State) : Prop where
  pending : s.pendLegal
  session : s.sessionHolds
  padding : s.paddingHolds

end Sys2Proof.Machine
end

