-- ==== Sys2Proof/Certificates/Slice0/Obligations.lean ====
section
/-! DEFINITION. The statements for the provers. Each says what the rules of spec/ say of the model's own definitions. -/

namespace Sys2Proof.Spec

/-! The spec's own data, written out from its rules. -/

/-- KA (41_key_schedule.md R125). -/
def kA : RoundKey := 0x9153E5BCE642#48

/-- KB (R125). -/
def kB : RoundKey := 0x6EAC1A4319BD#48

/-- The closed form of K1..K16 (R125). -/
def roundKeys : List RoundKey := [kB, kA, kA, kA, kA, kA, kA, kA, kB, kB, kB, kB, kB, kB, kB, kA]

/-- The closed form as the register file. -/
def roundKeyFile : KeyFile := #v[kB, kA, kA, kA, kA, kA, kA, kA, kB, kB, kB, kB, kB, kB, kB, kA]

/-- The rows of 42_feistel.md R144, each as one number of 64 hexadecimal digits, v = 0x00 first. -/
def nibbleRows : List Nat :=
  [0x01235476AB89FEDC45671032EFCDBA9889ABDCFE23017654CDEF98BA67453210,
   0x02469BDF2064B9FD4602DF9B6420FDB98ACE1357A8EC3175CE8A5713ECA87531,
   0x0369DE34A9C3749E472D9A70ED8730DA8BE156BC214BFC16CFA512F8650FB852,
   0x048C159D26AE37BF40C851D962EA73FB8C049D15AE26BF37C840D951EA62FB73,
   0x05AF58F2AF05F25841EB1CB6EB41B61C8D27D07A278D7AD0C963943E63C93E94,
   0x06C29F5B24E0BD794286DB1F60A4F93D8E4A17D3AC6835F1CA0E5397E82C71B5,
   0x07E5D2B0AD4F781A43A196F4E90B3C5E8F6D5A3825C7F092CB291E7C6183B4D6,
   0x080819192A2A3B3B4C4C5D5D6E6E7F7F80809191A2A2B3B3C4C4D5D5E6E6F7F7]

/-- OP of a command word, as a number (30_encoding.md R80). -/
def op (w : Word) : Nat := w.toNat % 256

/-- ARG of a command word, as a number (R80, R82). -/
def arg (w : Word) : Nat := w.toNat / 256 % 16

/-- RSVD of a command word, as a number (R80). -/
def rsvd (w : Word) : Nat := w.toNat / 4096

/-- OP is in the table (R83). -/
def opInTable (o : Nat) : Bool := decide (o ≤ 9 ∨ o = 15)

/-- ARG is in the range the table gives for OP: 0..15, 0..7 or 0 only (R82, R83). -/
def argInRange (o a : Nat) : Bool :=
  if o = 5 then decide (a < 16) else if o = 7 ∨ o = 9 then decide (a < 8) else decide (a = 0)

/-- OP of a keyed command (R83, 60_exceptions.md R243). -/
def keyedOp (o : Nat) : Bool := decide (3 ≤ o ∧ o ≤ 8)

/-- The SOFT_RESET word (45_control.md R221). -/
def softReset : Word := 0x000000000000000F#64

/-- The write of the SOFT_RESET word to CMD. -/
def softResetWrite : Access := .write 0#5 softReset

/-- The last p bytes of a block, 1 ≤ p ≤ 8, all equal p (44_cbc.md R180). -/
def paddedBy (w : Word) (p : Nat) : Prop :=
  1 ≤ p ∧ p ≤ 8 ∧ ∀ k, 8 - p ≤ k → k ≤ 7 → (Machine.blockByte w k).toNat = p

/-- C and D after the first r rounds of the schedule (41_key_schedule.md R124, R128). -/
def halvesAfter (key : Word) (r : Nat) : KeyHalf × KeyHalf :=
  (Machine.scheduleRounds Machine.tables (Machine.shifts.take r) (Machine.initialHalves Machine.tables key).1
    (Machine.initialHalves Machine.tables key).2).2

/-- E (42_feistel.md R141), written out from the spec. -/
def tableE : List Nat :=
  [32, 1, 2, 3, 4, 5, 4, 5, 6, 7, 8, 9, 8, 9, 10, 11, 12, 13, 12, 13, 14, 15, 16, 17,
   16, 17, 18, 19, 20, 21, 20, 21, 22, 23, 24, 25, 24, 25, 26, 27, 28, 29, 28, 29, 30, 31, 32, 1]

/-- P (42_feistel.md R143), written out from the spec. -/
def tableP : List Nat :=
  [16, 7, 20, 21, 29, 12, 28, 17, 1, 15, 23, 26, 5, 18, 31, 10, 2, 8, 24, 14, 32, 27, 3, 9, 19, 13, 30, 6, 22, 11, 4, 25]

/-- IP (43_block_transform.md R160), written out from the spec. -/
def tableIP : List Nat :=
  [58, 50, 42, 34, 26, 18, 10, 2, 60, 52, 44, 36, 28, 20, 12, 4, 62, 54, 46, 38, 30, 22, 14, 6,
   64, 56, 48, 40, 32, 24, 16, 8, 57, 49, 41, 33, 25, 17, 9, 1, 59, 51, 43, 35, 27, 19, 11, 3,
   61, 53, 45, 37, 29, 21, 13, 5, 63, 55, 47, 39, 31, 23, 15, 7]

/-- FP (43_block_transform.md R161), written out from the spec. -/
def tableFP : List Nat :=
  [40, 8, 48, 16, 56, 24, 64, 32, 39, 7, 47, 15, 55, 23, 63, 31, 38, 6, 46, 14, 54, 22, 62, 30,
   37, 5, 45, 13, 53, 21, 61, 29, 36, 4, 44, 12, 52, 20, 60, 28, 35, 3, 43, 11, 51, 19, 59, 27,
   34, 2, 42, 10, 50, 18, 58, 26, 33, 1, 41, 9, 49, 17, 57, 25]

/-- Every position i of `o` is position t(i) of `s` (40_bitvector.md R104). -/
def takes {n m : Nat} (o : BitVec m) (s : BitVec n) (t : List Nat) : Prop :=
  ∀ i, 1 ≤ i → i ≤ m → Machine.seqBit o i = Machine.seqBit s (t.getD (i - 1) 0)

/-- The commands without an argument, by their words (30_encoding.md R83). -/
def plainWords : List (Word × Instr) :=
  [(0x00, .nop), (0x01, .ksched), (0x02, .cbcStart), (0x03, .btFwd), (0x04, .btRev), (0x06, .cbcEnc), (0x08, .cbcDec),
   (0x0F, .softReset)]

/-- The commands with an argument: OP, the end of the range of ARG, and the instruction (R83). -/
def argWords : List (Nat × Nat × (BitVec 4 → Instr)) :=
  [(0x05, 16, .roundF), (0x07, 8, .cbcEncFinal), (0x09, 8, .cbcDecEnd)]

/-- The register map (20_memory.md R52) for a write of `v`, by offset. -/
def writeMap (v : Word) : List (Nat × Instr) :=
  [(0x00, .wrCmd v), (0x08, .wrStatus v), (0x10, .wrKey v), (0x18, .wrIv v), (0x20, .wrDin v), (0x28, .wrDout v),
   (0x30, .wrChain v), (0x40, .wrRk1 v), (0x48, .wrRk2 v), (0x50, .wrRk3 v), (0x58, .wrRk4 v), (0x60, .wrRk5 v),
   (0x68, .wrRk6 v), (0x70, .wrRk7 v), (0x78, .wrRk8 v), (0x80, .wrRk9 v), (0x88, .wrRk10 v), (0x90, .wrRk11 v),
   (0x98, .wrRk12 v), (0xA0, .wrRk13 v), (0xA8, .wrRk14 v), (0xB0, .wrRk15 v), (0xB8, .wrRk16 v)]

/-- The register map (R52) for a read, by offset. -/
def readMap : List (Nat × Instr) :=
  [(0x00, .rdCmd), (0x08, .rdStatus), (0x10, .rdKey), (0x18, .rdIv), (0x20, .rdDin), (0x28, .rdDout), (0x30, .rdChain),
   (0x40, .rdRk1), (0x48, .rdRk2), (0x50, .rdRk3), (0x58, .rdRk4), (0x60, .rdRk5), (0x68, .rdRk6), (0x70, .rdRk7),
   (0x78, .rdRk8), (0x80, .rdRk9), (0x88, .rdRk10), (0x90, .rdRk11), (0x98, .rdRk12), (0xA0, .rdRk13), (0xA8, .rdRk14),
   (0xB0, .rdRk15), (0xB8, .rdRk16)]

/-- The word index of an offset (R57). -/
def indexOf (offset : Nat) : PortIndex := BitVec.ofNat 5 (offset / 8)

/-- The word indexes of the reserved offsets 0x38 and 0xC0..0xF8 (R52). -/
def reserved (index : PortIndex) : Prop := index.toNat = 7 ∨ 24 ≤ index.toNat

/-- The instruction is a command word, not a bus access. -/
def isCommand (i : Instr) : Prop := ∃ w, encode i = .command w

end Sys2Proof.Spec

open Sys2Proof Sys2Proof.Machine

/-! ## Encoding -/

/-- Every well-formed instruction is read back from its code (30_encoding.md R83, R84; 20_memory.md R52). -/
def Obligations.DecodeOfEncodeIsTheInstruction : Prop :=
  ∀ i : Instr, i.wf = true → decode (encode i) = .instr i

/-- A code that decodes is the code of the well-formed instruction it decodes to: no two codes share a meaning. -/
def Obligations.EncodeOfDecodeIsTheCode : Prop :=
  ∀ (c : Code) (i : Instr), decode c = .instr i → i.wf = true ∧ encode i = c

/-- The legal command words, by their fields and as the list of forty (30_encoding.md R84, which the spec derives from its
rules R80, R82 and R83). -/
def Obligations.LegalCommandWordsAreTheForty : Prop :=
  ∀ w : Word,
    ((∃ i, decodeCommand w = .instr i) ↔
      Spec.rsvd w = 0 ∧ Spec.opInTable (Spec.op w) = true ∧ Spec.argInRange (Spec.op w) (Spec.arg w) = true) ∧
    ((∃ i, decodeCommand w = .instr i) ↔
      w.toNat ∈ [0x000, 0x001, 0x002, 0x003, 0x004, 0x006, 0x008, 0x00F] ∨
      (∃ a, a < 16 ∧ w.toNat = a * 256 + 0x05) ∨
      (∃ a, a < 8 ∧ (w.toNat = a * 256 + 0x07 ∨ w.toNat = a * 256 + 0x09)))

/-- Every row of 30_encoding.md R83 and of 20_memory.md R52 by itself: which instruction its word, or its offset written or
read, is, for every argument and every value; and illegal words and reserved offsets are rejected for the right reason. -/
def Obligations.WrittenOutCodesDecode : Prop :=
  (∀ x ∈ Spec.plainWords, decode (.command x.1) = .instr x.2) ∧
  (∀ x ∈ Spec.argWords, ∀ a : BitVec 4, a.toNat < x.2.1 →
    decode (.command (BitVec.ofNat 64 (a.toNat * 256 + x.1))) = .instr (x.2.2 a)) ∧
  (∀ v : Word, ∀ x ∈ Spec.writeMap v, decode (.bus (.write (Spec.indexOf x.1) v)) = .instr x.2) ∧
  (∀ x ∈ Spec.readMap, decode (.bus (.read (Spec.indexOf x.1))) = .instr x.2) ∧
  (∀ index : PortIndex, Spec.reserved index → decode (.bus (.read index)) = .reject .reservedOffset ∧
    ∀ v : Word, decode (.bus (.write index v)) = .reject .reservedOffset) ∧
  decode (.command 0x0000000000000807#64) = .reject .badArg ∧
  decode (.command 0x000000000000010F#64) = .reject .badArg ∧
  decode (.command 0x000000000000100A#64) = .reject .rsvdBits ∧
  decode (.command 0x000000000000000A#64) = .reject .illegalOp

/-! ## Acceptance and errors -/

/-- R245: the eight steps of a write of CMD, in order. -/
def Obligations.CommandWriteFollowsTheEightSteps : Prop :=
  ∀ (w : Word) (s : State),
    exec (.wrCmd w) s = .next (
      if w = Spec.softReset then resetAction s
      else if s.error ≠ none then s
      else if s.pend ≠ none then { s with error := some .busyWrite }
      else if Spec.rsvd w ≠ 0 then { s with error := some .rsvdBits }
      else if Spec.opInTable (Spec.op w) = false then { s with error := some .illegalOp }
      else if Spec.argInRange (Spec.op w) (Spec.arg w) = false then { s with error := some .badArg }
      else if Spec.keyedOp (Spec.op w) = true ∧ s.ksValid = false then { s with error := some .noKeys }
      else { s with pend := some w })

/-- A legal command other than SOFT_RESET, written to an idle core without an error and, when keyed, with valid keys, is
accepted, and nothing else changes (60_exceptions.md R242, R245 step 8). -/
def Obligations.LegalCommandOnAnIdleCoreIsAccepted : Prop :=
  ∀ (i : Instr) (w : Word) (s : State), i.wf = true → encode i = .command w → i ≠ .softReset →
    s.error = none → s.pend = none → (isKeyed i = true → s.ksValid = true) →
    exec (.wrCmd w) s = .next { s with pend := some w }

/-- The first error sets ERR and ERRCODE and nothing else; a later one changes nothing (60_exceptions.md R241, R240). -/
def Obligations.FirstErrorSetsErrAndErrcode : Prop :=
  ∀ (code : ErrCode) (n : Nat) (s : State),
    (code, n) ∈ [(.illegalOp, 1), (.badArg, 2), (.rsvdBits, 3), (.noKeys, 4), (.busyWrite, 5)] →
    (s.error = none → raiseError code s = { s with error := some code } ∧
      statusWord (raiseError code s) = statusWord s ||| BitVec.ofNat 64 (4 + 16 * n)) ∧
    (s.error ≠ none → raiseError code s = s)

/-- While ERR = 1 every host write but the SOFT_RESET word changes nothing (60_exceptions.md R246, 45_control.md R226). -/
def Obligations.FatalStateIgnoresEveryOtherWrite : Prop :=
  ∀ (s : State) (index : PortIndex) (v : Word), s.error ≠ none → Access.write index v ≠ Spec.softResetWrite →
    hostTurn (.write index v) s = .next s

/-- Once an error is recorded no step changes it, short of the reset input or the SOFT_RESET write (10_state.md R32,
60_exceptions.md R246). The premise on PEND is the model's invariant `State.pendLegal`. -/
def Obligations.RecordedErrorIsKeptUntilReset : Prop :=
  ∀ (s t : State) (e : ErrCode), s.pendLegal → step s = .next t → s.error = some e →
    (∀ rest, s.schedule ≠ .reset :: rest) → (∀ rest, s.schedule ≠ .access Spec.softResetWrite :: rest) →
    t.error = some e

/-- A host access that records an error changes nothing else, and an engine step completes and records none
(60_exceptions.md R247, which the spec derives). The premise on PEND is the model's invariant `State.pendLegal`. -/
def Obligations.ErrorsArePreciseAndNeverFromTheEngine : Prop :=
  (∀ (a : Access) (s t : State), a ≠ Spec.softResetWrite → hostTurn a s = .next t → t.error ≠ s.error →
    s.error = none ∧ t = { s with error := t.error }) ∧
  (∀ s : State, s.pendLegal → ∃ t, engineTurn s = .next t ∧ t.error = s.error ∧ t.pend = none)

/-- A recorded error does not change what the command in flight does (60_exceptions.md R246, 45_control.md R225). It compares
two runs; that L, R and the round counter, which R39 leaves unspecified, get equal values in both rests on log 4 and is the
model's choice. -/
def Obligations.RecordedErrorDoesNotDisturbACommand : Prop :=
  ∀ (i : Instr) (s t : State) (e : Option ErrCode), Spec.isCommand i → i ≠ .softReset → exec i s = .next t →
    exec i { s with error := e } = .next { t with error := e }

/-! ## The key schedule -/

/-- The round keys do not depend on the key, and why (41_key_schedule.md R125, which the spec derives from its rules R122
to R124). -/
def Obligations.RoundKeysDoNotDependOnTheKey : Prop :=
  (∀ key : Word, keySchedule tables key = Spec.roundKeys) ∧
  Spec.kA = perm 0x5555555AAAAAAA#56 tablePC2 ∧ Spec.kB = perm (~~~0x5555555AAAAAAA#56) tablePC2 ∧
  Spec.kB = ~~~Spec.kA ∧
  (∀ (key : Word) (r : Nat), 1 ≤ r → r ≤ 16 →
    joinKeyHalves (Spec.halvesAfter key r).1 (Spec.halvesAfter key r).2 =
        (if (shifts.take r).sum % 2 = 0 then 0x5555555AAAAAAA#56 else ~~~0x5555555AAAAAAA#56) ∧
      ((shifts.take r).sum % 2 = 0 ↔ (2 ≤ r ∧ r ≤ 8) ∨ r = 16))

/-- C and D after each round, for every key (41_key_schedule.md R128, which the spec derives from R124 and R125). -/
def Obligations.ScheduleHalvesAfterEachRound : Prop :=
  ∀ (key : Word) (r : Nat), 1 ≤ r → r ≤ 16 →
    Spec.halvesAfter key r =
      if r = 1 ∨ (9 ≤ r ∧ r ≤ 15) then (0xAAAAAAA#28, 0x5555555#28) else (0x5555555#28, 0xAAAAAAA#28)

/-- An entry of PC1 changes no round key (41_key_schedule.md R126). -/
def Obligations.Pc1ChangesNoRoundKey : Prop :=
  ∀ (T : Tables) (pc1 : Vector Nat 56) (key : Word), keySchedule { T with pc1 := pc1 } key = keySchedule T key

/-- KSCHED, for every KEY, writes the closed form of the key file, KS_VALID, C and D, and nothing else but its completion
(41_key_schedule.md R127, R125; 10_state.md R38).
That L, R and the round counter, which R39 leaves unspecified,
keep their values is the model's choice (log 7). -/
def Obligations.KschedWritesTheClosedForm : Prop :=
  ∀ s : State, exec .ksched s = .next
    { s with rk := Spec.roundKeyFile, ksValid := true, c := 0x5555555#28, d := 0xAAAAAAA#28, pend := none }

/-- KEY has no effect on any command or access but the read and the write of KEY itself, reset apart (41_key_schedule.md
R126). It compares two runs; that the values the spec leaves open (L, R and the round counter after a transform, R39, and
what a read returns while busy, R61) are equal in both rests on log 4 and is the model's choice. -/
def Obligations.KeyHasNoOtherObservableEffect : Prop :=
  ∀ (i : Instr) (s t : State) (k : Word), i ≠ .rdKey → (∀ v, i ≠ .wrKey v) → i ≠ .softReset →
    i ≠ .wrCmd Spec.softReset → exec i s = .next t →
    exec i { s with key := k } = .next { t with key := k }

/-! ## The bit-sequence primitives -/

/-- R104: output position i takes the bit at input position T(i), and the entries of the six tables lie in their inputs. -/
def Obligations.PermTakesTheBitAtTheTableEntry : Prop :=
  (∀ (n m : Nat) (s : BitVec n) (t : Vector Nat m) (i x : Nat), 1 ≤ i → i ≤ m → t[i - 1]? = some x →
    seqBit (perm s t) i = seqBit s x) ∧
  (∀ x, (x ∈ tables.pc1.toList → 1 ≤ x ∧ x ≤ 64) ∧ (x ∈ tables.pc2.toList → 1 ≤ x ∧ x ≤ 56) ∧
    (x ∈ tables.e.toList → 1 ≤ x ∧ x ≤ 32) ∧ (x ∈ tables.p.toList → 1 ≤ x ∧ x ≤ 32) ∧
    (x ∈ tables.ip.toList → 1 ≤ x ∧ x ≤ 64) ∧ (x ∈ tables.fp.toList → 1 ≤ x ∧ x ≤ 64))

/-- The cyclic left rotation by positions and for zero length (40_bitvector.md R105), and as the value of a 28-bit half, which
the spec derives from R100 and R105. -/
def Obligations.RotlMovesPositionsLeft : Prop :=
  (∀ (n : Nat) (s : BitVec n) (k i : Nat), 1 ≤ i → i ≤ n → seqBit (rotl s k) i = seqBit s ((i - 1 + k) % n + 1)) ∧
  (∀ (s : BitVec 0) (k : Nat), rotl s k = s) ∧
  (∀ (c : KeyHalf) (k : Nat), 1 ≤ k → k ≤ 27 → rotl c k = (c <<< k) ||| (c >>> (28 - k)))

/-- R100: the bits of an integer, most significant first; for a register value, the register itself. -/
def Obligations.BitsFromIntegerAreMostSignificantFirst : Prop :=
  (∀ v w i : Nat, 1 ≤ i → i ≤ w → (seqBit (bitsFromInteger v w) i).toNat = (v / 2 ^ (w - i)) % 2) ∧
  (∀ (w : Nat) (x : BitVec w), bitsFromInteger x.toNat w = x)

/-- R103 with R102: a block as eight bytes and back. -/
def Obligations.BlockBytesAreInverse : Prop :=
  (∀ w : Word, bitsFromBytes (bytesFromBits64 w) 0 = w) ∧
  (∀ (m : List Byte) (k : Nat), k + 8 ≤ m.length → bytesFromBits64 (bitsFromBytes m k) = (m.drop k).take 8) ∧
  (∀ (w : Word) (j : Nat), j < 8 →
    (bytesFromBits64 w)[j]? = some (BitVec.ofNat 8 (w.toNat / 2 ^ (56 - 8 * j))))

/-! ## The round function -/

/-- R142: the nibble of each group, from the group's six bits, in group order. -/
def Obligations.SubstitutionOfEachGroup : Prop :=
  ∀ (x : BitVec 48) (i : Nat), i < 8 →
    (substitute x).toNat / 2 ^ (28 - 4 * i) % 16 =
      ((x.toNat / 2 ^ (42 - 6 * i) % 64 * (i + 1)) ^^^ (x.toNat / 2 ^ (42 - 6 * i) % 64 / 4)) % 16

/-- The substitution as a table (42_feistel.md R144, which the spec derives from R142). -/
def Obligations.SubstitutionMatchesTheTable : Prop :=
  ∀ i, i < 8 → ∀ v, v < 64 → (nibble i v).toNat = Spec.nibbleRows.getD i 0 / 16 ^ (63 - v) % 16

/-- Complementing both the half and the key leaves F unchanged (42_feistel.md R147 corner case: E(~R) = ~E(R)). -/
def Obligations.RoundFunctionOfComplements : Prop :=
  ∀ (r : Half) (k : RoundKey), roundFunction tables (~~~r) (~~~k) = roundFunction tables r k

/-- F by positions (42_feistel.md R145): position i of F(R, K) is position P(i) of S(E(R) XOR K), E(R) taking position E(j)
of R at j. ROUND_F for every ARG: DOUT gets F(DIN[31:0], RK(ARG+1)) zero-extended, and nothing else changes but its
completion (R147). The entries of E and P are presumed (log 14); that L, R and the round counter, which R39 leaves
unspecified, keep their values is the model's choice (log 7). -/
def Obligations.RoundFWritesTheRoundFunction : Prop :=
  (∀ (r : Half) (k : RoundKey), ∃ e : BitVec 48, Spec.takes e r Spec.tableE ∧
    Spec.takes (roundFunction tables r k) (substitute (e ^^^ k)) Spec.tableP) ∧
  (∀ (arg : BitVec 4) (s : State), exec (.roundF arg) s = .next
    { s with dout := (roundFunction tables (s.din.setWidth 32) (s.rk.get arg.toFin)).setWidth 64, pend := none })

/-! ## The block transform -/

/-- FP is the inverse of IP, as tables and as permutations (43_block_transform.md R161; the entries of both tables are
presumed, log 14). -/
def Obligations.FinalPermutationInvertsTheInitial : Prop :=
  (∀ j, 1 ≤ j → j ≤ 64 → ∃ x y, tableIP[j - 1]? = some x ∧ tableFP[x - 1]? = some j ∧
    tableFP[j - 1]? = some y ∧ tableIP[y - 1]? = some j) ∧
  (∀ s : Word, perm (perm s tableIP) tableFP = s)

/-- R165: the involution, for every list of keys and for the core's two key orders. -/
def Obligations.BlockTransformIsAnInvolution : Prop :=
  (∀ (b : Word) (k : List RoundKey), blockTransform tables (blockTransform tables b k) k.reverse = b) ∧
  (∀ (b : Word) (rk : KeyFile), blockTransform tables (blockTransform tables b (keysFwd rk)) (keysRev rk) = b ∧
    blockTransform tables (blockTransform tables b (keysRev rk)) (keysFwd rk) = b)

/-- BT through its halves (43_block_transform.md R162, R163): L_0 and R_0 are the halves of IP(B), each round makes L the old R
and R the old L XOR F(R, k), and the result is FP of the pre-output R_16 before L_16. BT_FWD and BT_REV: DOUT gets the
transform of DIN with RK1..RK16 or RK16..RK1; nothing else changes but the completion and L, R and the round counter, which
the spec leaves unspecified (R166, R167; 10_state.md R39). The entries of IP and FP are presumed (log 14). -/
def Obligations.BlockCommandsWriteTheTransform : Prop :=
  (∀ (b : Word) (keys : List RoundKey), keys.length = 16 → ∃ L R : Nat → Half,
    Spec.takes (L 0 ++ R 0) b Spec.tableIP ∧
    (∀ j, j < 16 → L (j + 1) = R j ∧ R (j + 1) = L j ^^^ roundFunction tables (R j) (keys.getD j 0#48)) ∧
    Spec.takes (blockTransform tables b keys) (R 16 ++ L 16) Spec.tableFP) ∧
  (∀ s : State,
    (∃ l r n k, exec .btFwd s = .next
      { s with dout := blockTransform tables s.din s.rk.toList, pend := none, l := l, r := r, round := n, draws := k }) ∧
    (∃ l r n k, exec .btRev s = .next
      { s with dout := blockTransform tables s.din s.rk.toList.reverse, pend := none, l := l, r := r, round := n,
               draws := k }))

/-- BT_REV on the result of BT_FWD returns the first input, and the other way round, with any key file
(43_block_transform.md R167). -/
def Obligations.BlockCommandsUndoEachOther : Prop :=
  ∀ (s t u : State) (i j : Instr), (i, j) ∈ [(.btFwd, .btRev), (.btRev, .btFwd)] →
    exec i s = .next t → exec j { t with din := t.dout } = .next u → u.dout = s.din

/-! ## The chaining codec -/

/-- CBC_START (44_cbc.md R181).
That L, R and the round counter, which R39 leaves unspecified,
keep their values is the model's choice (log 7). -/
def Obligations.CbcStartLoadsTheChain : Prop :=
  ∀ s : State, exec .cbcStart s = .next
    { s with chain := s.iv, decSeen := false, truncWarn := false, padWarn := false, padlen := 0#4, pend := none }

/-- CBC_ENC and CBC_ENC_FINAL: DOUT and CHAIN get the transform of the block XOR the old CHAIN, the block being DIN or its
padded copy; DIN and all else unchanged but the completion and L, R and the round counter (44_cbc.md R183, R184). -/
def Obligations.CbcEncryptCommandsChain : Prop :=
  ∀ s : State,
    (∃ l r n k, exec .cbcEnc s = .next
      { s with dout := blockTransform tables (s.din ^^^ s.chain) s.rk.toList,
               chain := blockTransform tables (s.din ^^^ s.chain) s.rk.toList,
               pend := none, l := l, r := r, round := n, draws := k }) ∧
    (∀ a : BitVec 4, ∃ l r n k, exec (.cbcEncFinal a) s = .next
      { s with dout := blockTransform tables (padBlock s.din a.toNat ^^^ s.chain) s.rk.toList,
               chain := blockTransform tables (padBlock s.din a.toNat ^^^ s.chain) s.rk.toList,
               pend := none, l := l, r := r, round := n, draws := k })

/-- CBC_DEC: DOUT gets the reverse transform of DIN XOR the old CHAIN, and CHAIN gets DIN (44_cbc.md R186). -/
def Obligations.CbcDecChainsTheCiphertext : Prop :=
  ∀ s : State, ∃ l r n k, exec .cbcDec s = .next
    { s with dout := blockTransform tables s.din s.rk.toList.reverse ^^^ s.chain, chain := s.din, decSeen := true,
             pend := none, l := l, r := r, round := n, draws := k }

/-- CBC_DEC_END in its three cases: no block recovered, valid padding of p bytes, invalid padding. TRUNC_WARN is set when
the tail is not 0 and kept when it is (44_cbc.md R187, R180).
That L, R and the round counter, which R39 leaves unspecified,
keep their values is the model's choice (log 7). -/
def Obligations.CbcDecEndReportsThePadding : Prop :=
  ∀ (tail : BitVec 4) (s : State),
    (s.decSeen = false → exec (.cbcDecEnd tail) s = .next
      { s with truncWarn := s.truncWarn || decide (tail ≠ 0#4), padlen := 0#4, pend := none }) ∧
    (∀ p, s.decSeen = true → Spec.paddedBy s.dout p → exec (.cbcDecEnd tail) s = .next
      { s with truncWarn := s.truncWarn || decide (tail ≠ 0#4), padlen := BitVec.ofNat 4 p, padWarn := false,
               pend := none }) ∧
    (s.decSeen = true → (∀ p, ¬Spec.paddedBy s.dout p) → exec (.cbcDecEnd tail) s = .next
      { s with truncWarn := s.truncWarn || decide (tail ≠ 0#4), padlen := 0#4, padWarn := true, pend := none })

/-- R180: PadBlock and PadCheck, byte by byte. -/
def Obligations.PadBlockAndPadCheckByBytes : Prop :=
  (∀ (w : Word) (n k : Nat), n < 8 → k < 8 →
    blockByte (padBlock w n) k = if k < n then blockByte w k else BitVec.ofNat 8 (8 - n)) ∧
  (∀ w : Word, padBlock w 0 = 0x0808080808080808#64) ∧
  (∀ w : Word, (padCheck w).2 = blockByte w 7 ∧
    ((padCheck w).1 = true ↔ 1 ≤ (blockByte w 7).toNat ∧ (blockByte w 7).toNat ≤ 8 ∧
      ∀ k, 8 - (blockByte w 7).toNat ≤ k → k ≤ 7 → blockByte w k = blockByte w 7))

/-- The padding that CBC_ENC_FINAL generates passes the check of CBC_DEC_END with p = 8 - n (R180). -/
def Obligations.GeneratedPaddingIsValid : Prop :=
  ∀ (w : Word) (n : Nat), n < 8 → padCheck (padBlock w n) = (true, BitVec.ofNat 8 (8 - n))

/-- The bytes b_n..b7 of DIN never affect the result of CBC_ENC_FINAL (44_cbc.md R184, U13). It compares two runs; that L, R
and the round counter, which R39 leaves unspecified, get equal values in both rests on log 4 and is the model's choice. -/
def Obligations.UnusedDinBytesDoNotMatter : Prop :=
  ∀ (a : BitVec 4) (s t : State) (v : Word), (Instr.cbcEncFinal a).wf = true →
    (∀ k, k < a.toNat → blockByte v k = blockByte s.din k) → exec (.cbcEncFinal a) s = .next t →
    exec (.cbcEncFinal a) { s with din := v } = .next { t with din := v }

/-- R185: the padded length and the padding bytes. -/
def Obligations.PaddedMessageLength : Prop :=
  ∀ m : List Byte,
    1 ≤ paddingCount m.length ∧ paddingCount m.length ≤ 8 ∧ paddingCount m.length = 8 - m.length % 8 ∧
    (padMessage m).length = (if m.length % 8 ≠ 0 then m.length + (8 - m.length % 8) else m.length + 8) ∧
    (padMessage m).length % 8 = 0 ∧ 0 < (padMessage m).length ∧ (padMessage m).take m.length = m ∧
    ∀ b ∈ (padMessage m).drop m.length, b.toNat = paddingCount m.length

/-- The round trip of the message-level codec, for every key file, message and initial value (44_cbc.md R194, which the
spec derives and says the source requires). -/
def Obligations.DecryptOfEncryptIsTheMessage : Prop :=
  ∀ (rk : KeyFile) (m : List Byte) (iv : Word),
    decryptMessage tables rk (encryptMessage tables rk m iv) iv = { bytes := m, truncWarn := false, padWarn := false }

/-- The encrypt driver computes Encrypt(M, IV), for every message, latency and filling, from an idle core without an error
and with valid keys (44_cbc.md R190). The state it reaches is the end of its run (70_reset_and_hazards.md R279). How the
schedule places the engine and writes `wait` is the model's (logs 1, 19, 25). -/
def Obligations.EncryptDriverComputesEncrypt : Prop :=
  ∀ (s : State) (latency : Nat → Nat) (m : List Byte) (fill : Word),
    s.pend = none → s.error = none → s.ksValid = true →
    s.schedule = programTurns latency 0 (encryptProgram m fill) →
    ∃ (t : State) (out : List Word), Host.Core.run core s.schedule.length s = .next t ∧ t.schedule = [] ∧
      s.endOfRun = .next t ∧ t.safeEnd = true ∧ doutReads t = doutReads s ++ out ∧ out.flatMap bytesFromBits64 = encryptMessage tables s.rk m s.iv

/-- The decrypt driver computes Decrypt(X, IV), warnings included (44_cbc.md R191). The state it reaches is the end of its run
(70_reset_and_hazards.md R279). How the schedule places the engine and writes `wait` is the model's (logs 1, 19, 25). -/
def Obligations.DecryptDriverComputesDecrypt : Prop :=
  ∀ (s : State) (latency : Nat → Nat) (x : List Byte),
    s.pend = none → s.error = none → s.ksValid = true →
    s.schedule = programTurns latency 0 (decryptProgram x) →
    ∃ (t : State) (out : List Word) (status : Word), Host.Core.run core s.schedule.length s = .next t ∧
      t.schedule = [] ∧ s.endOfRun = .next t ∧ t.safeEnd = true ∧ doutReads t = doutReads s ++ out ∧ t.received.head? = some (1#5, status) ∧
      decryptResult out status = decryptMessage tables s.rk x s.iv

/-! ## Control commands and host accesses -/

/-- NOP (45_control.md R220). -/
def Obligations.NopOnlyCompletes : Prop :=
  ∀ s : State, exec .nop s = .next { s with pend := none }

/-- A write of KEY on an idle core without an error (45_control.md R223). -/
def Obligations.KeyWriteEndsTheSession : Prop :=
  ∀ (v : Word) (s : State), s.error = none → s.pend = none →
    exec (.wrKey v) s = .next { s with key := v, ksValid := false }

/-- R224: writes of IV and DIN on an idle core without an error. -/
def Obligations.IvAndDinWritesStore : Prop :=
  ∀ (v : Word) (s : State), s.error = none → s.pend = none →
    exec (.wrIv v) s = .next { s with iv := v } ∧ exec (.wrDin v) s = .next { s with din := v } ∧
    hostTurn (.write 3#5 v) s = .next { s with iv := v } ∧ hostTurn (.write 4#5 v) s = .next { s with din := v }

/-- A write of KEY, IV or DIN while a command is in flight is discarded with BUSY_WRITE, and the command completes as it would
have (45_control.md R225). That L, R and the round counter, which R39 leaves unspecified, get the values they would have had
rests on log 4 and is the model's choice. -/
def Obligations.DataWriteWhileBusyIsDiscarded : Prop :=
  ∀ (v : Word) (s : State), s.error = none → s.pend ≠ none →
    (∀ i ∈ [Instr.wrKey v, .wrIv v, .wrDin v], exec i s = .next { s with error := some .busyWrite }) ∧
    (∀ u : State, s.pendLegal → engineTurn s = .next u →
      engineTurn { s with error := some .busyWrite } = .next { u with error := some .busyWrite })

/-- R55: a write of a read-only register or of a reserved offset changes no state and raises no error. -/
def Obligations.ReadOnlyAndReservedWritesAreIgnored : Prop :=
  (∀ (v : Word) (s : State), ∀ i ∈ [Instr.wrStatus v, .wrDout v, .wrChain v,
      .wrRk1 v, .wrRk2 v, .wrRk3 v, .wrRk4 v, .wrRk5 v, .wrRk6 v, .wrRk7 v, .wrRk8 v,
      .wrRk9 v, .wrRk10 v, .wrRk11 v, .wrRk12 v, .wrRk13 v, .wrRk14 v, .wrRk15 v, .wrRk16 v], exec i s = .next s) ∧
  (∀ (index : PortIndex) (v : Word) (s : State), index ∉ [0#5, 2#5, 3#5, 4#5] →
    hostTurn (.write index v) s = .next s)

/-- Reads that are exact in every state: KEY, IV, DIN and CMD (20_memory.md R61, R56). -/
def Obligations.ExactReads : Prop :=
  ∀ s : State,
    exec .rdCmd s = .next { s with received := (0#5, 0#64) :: s.received } ∧
    exec .rdKey s = .next { s with received := (2#5, s.key) :: s.received } ∧
    exec .rdIv s = .next { s with received := (3#5, s.iv) :: s.received } ∧
    exec .rdDin s = .next { s with received := (4#5, s.din) :: s.received }

/-- R56: a read of CMD or of a reserved offset returns 0, in every state. -/
def Obligations.CmdAndReservedReadsReturnZero : Prop :=
  ∀ (index : PortIndex) (s : State), index.toNat = 0 ∨ index.toNat = 7 ∨ 24 ≤ index.toNat →
    hostTurn (.read index) s = .next { s with received := (index, 0#64) :: s.received }

/-- Reads of STATUS, DOUT, CHAIN and RK1..RK16 while no command is in flight (45_control.md R227). -/
def Obligations.IdleReadsReturnTheRegisters : Prop :=
  ∀ s : State, s.pend = none →
    ∀ x ∈ [(Instr.rdStatus, 1#5, statusWord s), (.rdDout, 5#5, s.dout), (.rdChain, 6#5, s.chain),
        (.rdRk1, 8#5, (s.rk.get 0).setWidth 64), (.rdRk2, 9#5, (s.rk.get 1).setWidth 64),
        (.rdRk3, 10#5, (s.rk.get 2).setWidth 64), (.rdRk4, 11#5, (s.rk.get 3).setWidth 64),
        (.rdRk5, 12#5, (s.rk.get 4).setWidth 64), (.rdRk6, 13#5, (s.rk.get 5).setWidth 64),
        (.rdRk7, 14#5, (s.rk.get 6).setWidth 64), (.rdRk8, 15#5, (s.rk.get 7).setWidth 64),
        (.rdRk9, 16#5, (s.rk.get 8).setWidth 64), (.rdRk10, 17#5, (s.rk.get 9).setWidth 64),
        (.rdRk11, 18#5, (s.rk.get 10).setWidth 64), (.rdRk12, 19#5, (s.rk.get 11).setWidth 64),
        (.rdRk13, 20#5, (s.rk.get 12).setWidth 64), (.rdRk14, 21#5, (s.rk.get 13).setWidth 64),
        (.rdRk15, 22#5, (s.rk.get 14).setWidth 64), (.rdRk16, 23#5, (s.rk.get 15).setWidth 64)],
      exec x.1 s = .next { s with received := (x.2.1, x.2.2) :: s.received }

/-- Reads while a command is in flight: any value of DOUT, CHAIN and RK1..RK16 and of the open bits of STATUS; BUSY, ERR
and ERRCODE exact; only what the host has received and the model's count of draws change (20_memory.md R61). -/
def Obligations.BusyReadsAreOpen : Prop :=
  ∀ s : State, s.pend ≠ none →
    (∃ v k, exec .rdStatus s = .next { s with received := (1#5, v) :: s.received, draws := k } ∧
      v.getLsbD 0 = true ∧ v.getLsbD 2 = s.error.isSome ∧ v.extractLsb' 4 4 = errCodeField s.error) ∧
    ∀ x ∈ [(Instr.rdDout, 5#5), (.rdChain, 6#5),
        (.rdRk1, 8#5), (.rdRk2, 9#5), (.rdRk3, 10#5), (.rdRk4, 11#5),
        (.rdRk5, 12#5), (.rdRk6, 13#5), (.rdRk7, 14#5), (.rdRk8, 15#5),
        (.rdRk9, 16#5), (.rdRk10, 17#5), (.rdRk11, 18#5), (.rdRk12, 19#5),
        (.rdRk13, 20#5), (.rdRk14, 21#5), (.rdRk15, 22#5), (.rdRk16, 23#5)],
      ∃ v k, exec x.1 s = .next { s with received := (x.2, v) :: s.received, draws := k }

/-- A read returns one value and changes no state of the core (20_memory.md R51). -/
def Obligations.ReadsChangeNoCoreState : Prop :=
  ∀ (index : PortIndex) (s : State), ∃ t v, hostTurn (.read index) s = .next t ∧ s.sameCore t ∧
    t.schedule = s.schedule ∧ t.received = (index, v) :: s.received

/-- The layout of STATUS (10_state.md R29). -/
def Obligations.StatusFieldsAreWhereTheTablePutsThem : Prop :=
  ∀ s : State,
    (statusWord s).getLsbD 0 = s.pend.isSome ∧ (statusWord s).getLsbD 1 = s.ksValid ∧
    (statusWord s).getLsbD 2 = s.error.isSome ∧ (statusWord s).getLsbD 3 = s.decSeen ∧
    (statusWord s).extractLsb' 4 4 = errCodeField s.error ∧ (statusWord s).getLsbD 8 = s.truncWarn ∧
    (statusWord s).getLsbD 9 = s.padWarn ∧ (statusWord s).extractLsb' 10 6 = 0#6 ∧
    (statusWord s).extractLsb' 16 4 = s.padlen ∧ (statusWord s).extractLsb' 20 44 = 0#44

/-- R30: BUSY = 1 exactly when PEND holds a command. -/
def Obligations.BusyExactlyWhilePendHoldsACommand : Prop :=
  ∀ s : State, (statusWord s).getLsbD 0 = true ↔ ∃ w, s.pend = some w

/-- The registers and STATUS fields that each instruction may change, reset apart: the writers of the tables of 10_state.md
R22 and R29, and of C and D (R38) and PEND (R40). That C and D keep their values between commands is the model's choice
(log 9), and so is the schedule, which no instruction changes (log 1). -/
def Obligations.OnlyTheListedInstructionsWriteEachRegister : Prop :=
  ∀ (i : Instr) (s t : State), exec i s = .next t → i ≠ .softReset → i ≠ .wrCmd Spec.softReset →
    (t.key ≠ s.key → ∃ v, i = .wrKey v) ∧ (t.iv ≠ s.iv → ∃ v, i = .wrIv v) ∧ (t.din ≠ s.din → ∃ v, i = .wrDin v) ∧
    (t.dout ≠ s.dout → i ∈ [Instr.btFwd, .btRev, .cbcEnc, .cbcDec] ∨ ∃ a, i = .roundF a ∨ i = .cbcEncFinal a) ∧
    (t.chain ≠ s.chain → i ∈ [Instr.cbcStart, .cbcEnc, .cbcDec] ∨ ∃ a, i = .cbcEncFinal a) ∧
    (t.rk ≠ s.rk → i = .ksched) ∧ (t.ksValid ≠ s.ksValid → i = .ksched ∨ ∃ v, i = .wrKey v) ∧
    (t.decSeen ≠ s.decSeen → i = .cbcStart ∨ i = .cbcDec) ∧
    (t.truncWarn ≠ s.truncWarn ∨ t.padWarn ≠ s.padWarn ∨ t.padlen ≠ s.padlen →
      i = .cbcStart ∨ ∃ a, i = .cbcDecEnd a) ∧
    (t.error ≠ s.error → ∃ v, i = .wrCmd v ∨ i = .wrKey v ∨ i = .wrIv v ∨ i = .wrDin v) ∧
    (t.c ≠ s.c ∨ t.d ≠ s.d → i = .ksched) ∧ (t.pend ≠ s.pend → Spec.isCommand i ∨ ∃ v, i = .wrCmd v) ∧
    t.schedule = s.schedule

/-! ## Reset -/

/-- The reset action, by the reset input and by SOFT_RESET, in every state (70_reset_and_hazards.md R270). C, D, L, R and the
round counter get values the statement leaves open, as does the model's count of draws; that all four ways of resetting
leave equal ones is the model's choice (log 4), and so is that the schedule and what the host has received stay (log 6). -/
def Obligations.ResetSetsEveryRegister : Prop :=
  ∀ s : State, ∃ (t : State) (c d : KeyHalf) (l r : Half) (n k : Nat),
    t = { key := 0#64, iv := 0#64, din := 0#64, dout := 0#64, chain := 0#64, rk := Vector.replicate 16 0#48,
          ksValid := false, error := none, decSeen := false, truncWarn := false, padWarn := false, padlen := 0#4,
          pend := none, c := c, d := d, l := l, r := r, round := n, schedule := s.schedule, received := s.received,
          draws := k } ∧
    takeTurn .reset s = .next t ∧ exec .softReset s = .next t ∧ exec (.wrCmd Spec.softReset) s = .next t ∧
      hostTurn Spec.softResetWrite s = .next t

/-- R42: the reset values of the host-visible registers, of STATUS and of PEND. What `State.reset` holds in C, D, L, R and
the round counter is the model's choice (log 5) and not stated. -/
def Obligations.ResetValues : Prop :=
  State.reset.key = 0#64 ∧ State.reset.iv = 0#64 ∧ State.reset.din = 0#64 ∧ State.reset.dout = 0#64 ∧
  State.reset.chain = 0#64 ∧ (∀ r : Fin 16, State.reset.rk.get r = 0#48) ∧ statusWord State.reset = 0#64 ∧
  State.reset.ksValid = false ∧ State.reset.error = none ∧ State.reset.decSeen = false ∧
  State.reset.truncWarn = false ∧ State.reset.padWarn = false ∧ State.reset.padlen = 0#4 ∧ State.reset.pend = none

/-! ## Steps and runs -/

/-- A step runs the decoded instruction: the host's access when the schedule has it next, the command in PEND when it is
the engine's turn or the schedule is used up (10_state.md R20, R40). The reset input's step is the reset action
(70_reset_and_hazards.md R271); an access of a reserved offset reads 0 or is ignored (20_memory.md R55, R56). The schedule is
the model's (logs 1 and 2), and so is the list of what the host has received (log 3). That the reset input and SOFT_RESET
leave equal values in C, D, L, R and the round counter, which R270 leaves unspecified, is the model's choice too (log 4). -/
def Obligations.StepRunsTheDecodedInstruction : Prop :=
  (∀ (s : State) (rest : List Turn) (a : Access) (i : Instr), s.schedule = .access a :: rest →
    decode (.bus a) = .instr i → step s = exec i { s with schedule := rest }) ∧
  (∀ (s : State) (rest : List Turn) (a : Access), s.schedule = .access a :: rest →
    step s = hostTurn a { s with schedule := rest }) ∧
  (∀ (s : State) (rest : List Turn) (index : PortIndex), s.schedule = .access (.read index) :: rest →
    Spec.reserved index → step s = .next { s with schedule := rest, received := (index, 0#64) :: s.received }) ∧
  (∀ (s : State) (rest : List Turn) (index : PortIndex) (v : Word), s.schedule = .access (.write index v) :: rest →
    Spec.reserved index → step s = .next { s with schedule := rest }) ∧
  (∀ (s : State) (rest : List Turn), s.schedule = .reset :: rest →
    step s = takeTurn .reset { s with schedule := rest } ∧ step s = exec .softReset { s with schedule := rest }) ∧
  (∀ (s : State) (rest : List Turn) (w : Word) (i : Instr), s.schedule = .engine :: rest → s.pend = some w →
    decode (.command w) = .instr i → step s = exec i { s with schedule := rest }) ∧
  (∀ (s : State) (w : Word) (i : Instr), s.schedule = [] → s.pend = some w → decode (.command w) = .instr i →
    step s = exec i s) ∧
  (∀ (s : State) (rest : List Turn), s.schedule = .engine :: rest → s.pend = none →
    step s = .next { s with schedule := rest }) ∧
  (∀ s : State, s.schedule = [] → s.pend = none → step s = .next s)

/-- The invariant holds at reset. -/
def Obligations.ResetMeetsTheInvariant : Prop := State.reset.Inv

/-- Every step keeps the invariant: PEND is a legal command with the keys it needs, the key file is the schedule of KEY
while KS_VALID = 1, and PADLEN and PAD_WARN agree (R31, R36, R43, R244). The clause that C and D keep the halves of round 16
while KS_VALID = 1 is the model's choice (log 9): R38 gives them when KSCHED completes. -/
def Obligations.StepKeepsTheInvariant : Prop :=
  ∀ s t : State, s.Inv → step s = .next t → t.Inv

/-- From every state of the invariant, after one step for each turn of the schedule and one more, no command is left in
flight: each has completed (10_state.md R40; 70_reset_and_hazards.md R278) or was abandoned by a reset (R270, 45_control.md
R221). And every run has its end, the first state in which the host has no access left and PEND holds nothing, whatever
turns follow (R279). The engine's turn after the schedule is log 2. -/
def Obligations.EveryRunEndsWithNoCommandInFlight : Prop :=
  ∀ s : State, s.Inv →
    (∃ t : State, Host.Core.run core (s.schedule.length + 1) s = .next t ∧ t.schedule = [] ∧ t.pend = none) ∧
    (∃ (n : Nat) (e : State), n ≤ s.schedule.length + 1 ∧ s.endOfRun = .next e ∧ Host.Core.run core n s = .next e ∧
      (∀ a, .access a ∉ e.schedule) ∧ e.pend = none ∧
      ∀ m u, m < n → Host.Core.run core m s = .next u → (∃ a, .access a ∈ u.schedule) ∨ u.pend ≠ none)

/-- While a command is in flight a host access other than SOFT_RESET changes nothing but the recorded error, what the host
has received and the model's count of draws: the operands cannot change (20_memory.md R63). -/
def Obligations.OperandsAreStableInFlight : Prop :=
  ∀ (a : Access) (s t : State), s.pend ≠ none → a ≠ Spec.softResetWrite → hostTurn a s = .next t →
    t = { s with error := t.error, received := t.received, draws := t.draws }

/-- The result of a command does not depend on when within its latency the engine takes its turn: after any accesses that
are no SOFT_RESET write it does what it would have done at once, but for the recorded error, what the host has received,
and L, R and the round counter, which are unspecified (20_memory.md R63). Where the engine's turn stands is the model's
(logs 1, 19). -/
def Obligations.ResultDoesNotDependOnLatency : Prop :=
  ∀ (s t u : State) (accesses : List Access), s.pendLegal → s.pend ≠ none → Spec.softResetWrite ∉ accesses →
    s.schedule = accesses.map Turn.access ++ [.engine] → engineTurn s = .next t →
    Host.Core.run core s.schedule.length s = .next u →
    u = { t with error := u.error, l := u.l, r := u.r, round := u.round, schedule := [], received := u.received,
                 draws := u.draws }
end

