-- ==== Sys2Proof/Laws/Bits.lean ====
section
/-! SUPPORT. The bit-sequence primitives: positions, and blocks as bytes. -/

namespace Sys2Proof.Machine

/-- A sequence built from its positions has them. -/
theorem seqBit_seqOf (m : Nat) (f : Nat → Bool) {i : Nat} (h1 : 1 ≤ i) (h2 : i ≤ m) : seqBit (seqOf m f) i = f i := by
  have hlt : m - i < m := by omega
  have hback : m - (m - i) = i := by omega
  simp [seqBit, seqOf, h1, h2, hlt, hback]

/-- Two sequences with the same positions are the same. -/
theorem seq_ext {n : Nat} {s t : BitVec n} (h : ∀ i, 1 ≤ i → i ≤ n → seqBit s i = seqBit t i) : s = t := by
  apply BitVec.eq_of_getLsbD_eq
  intro j hj
  have := h (n - j) (by omega) (by omega)
  have hback : n - (n - j) = j := by omega
  simpa [seqBit, hback, show 1 ≤ n - j by omega] using this

/-- A bit of a sequence built from its positions. -/
theorem getLsbD_seqOf (m : Nat) (f : Nat → Bool) {j : Nat} (h : j < m) : (seqOf m f).getLsbD j = f (m - j) := by
  simp [seqOf, h]

/-- The bytes of a block built from its bytes. -/
theorem blockByte_blockOf (f : Nat → Byte) {k : Nat} (hk : k < 8) : blockByte (blockOf f) k = f k := by
  apply BitVec.eq_of_getLsbD_eq
  intro j hj
  have hb : 56 - 8 * k + j < 64 := by omega
  have hq : (64 - (56 - 8 * k + j) - 1) / 8 = k := by omega
  have hr : 7 - (64 - (56 - 8 * k + j) - 1) % 8 = j := by omega
  simp only [blockByte, BitVec.getLsbD_extractLsb', hj, decide_true, Bool.true_and, blockOf, getLsbD_seqOf 64 _ hb, hq, hr]

/-- A block is built from its bytes. -/
theorem blockOf_blockByte (w : Word) : blockOf (blockByte w) = w := by
  apply BitVec.eq_of_getLsbD_eq
  intro j hj
  have hr : 7 - (64 - j - 1) % 8 < 8 := by omega
  have hb : 56 - 8 * ((64 - j - 1) / 8) + (7 - (64 - j - 1) % 8) = j := by omega
  simp only [blockOf, getLsbD_seqOf 64 _ hj, blockByte, BitVec.getLsbD_extractLsb', hr, decide_true, Bool.true_and, hb]

/-- Two blocks with the same bytes are the same. -/
theorem block_ext {v w : Word} (h : ∀ k, k < 8 → blockByte v k = blockByte w k) : v = w := by
  rw [← blockOf_blockByte v, ← blockOf_blockByte w]
  refine seq_ext fun i h1 h2 => ?_
  have hi : (i - 1) / 8 < 8 := by omega
  simp only [blockOf, seqBit_seqOf 64 _ h1 h2, h _ hi]

@[simp] theorem leftHalf_joinHalves (a b : Half) : leftHalf (joinHalves a b) = a := by
  apply BitVec.eq_of_getLsbD_eq
  intro j hj
  have h1 : ¬(32 + j < 32) := by omega
  have h2 : 32 + j - 32 = j := by omega
  simp only [leftHalf, joinHalves, BitVec.getLsbD_extractLsb', hj, decide_true, Bool.true_and, BitVec.getLsbD_append,
    h1, if_false, h2]

@[simp] theorem rightHalf_joinHalves (a b : Half) : rightHalf (joinHalves a b) = b := by
  apply BitVec.eq_of_getLsbD_eq
  intro j hj
  simp only [rightHalf, joinHalves, BitVec.getLsbD_extractLsb', hj, decide_true, Bool.true_and, BitVec.getLsbD_append,
    Nat.zero_add, if_true]

@[simp] theorem joinHalves_halves (w : Word) : joinHalves (leftHalf w) (rightHalf w) = w := by
  apply BitVec.eq_of_getLsbD_eq
  intro j hj
  simp only [joinHalves, leftHalf, rightHalf, BitVec.getLsbD_append, BitVec.getLsbD_extractLsb']
  by_cases h : j < 32
  · simp [h]
  · have h2 : j - 32 < 32 := by omega
    have h3 : 32 + (j - 32) = j := by omega
    simp [h, h2, h3]

@[simp] theorem bytesFromBits64_length (w : Word) : (bytesFromBits64 w).length = 8 := by simp [bytesFromBits64]

/-- The tables of the spec fit their inputs. -/
theorem tables_inRange : tablesInRange tables = true := by decide

end Sys2Proof.Machine
end

