-- ==== Sys2Proof/Laws/State.lean ====
section
/-! SUPPORT. One lemma for each field of State under each named update, so that no proof unfolds a record update. -/

namespace Sys2Proof.Machine

/-! ## `complete` -/

@[simp] theorem complete_key (s : State) : (complete s).key = s.key := rfl
@[simp] theorem complete_iv (s : State) : (complete s).iv = s.iv := rfl
@[simp] theorem complete_din (s : State) : (complete s).din = s.din := rfl
@[simp] theorem complete_dout (s : State) : (complete s).dout = s.dout := rfl
@[simp] theorem complete_chain (s : State) : (complete s).chain = s.chain := rfl
@[simp] theorem complete_rk (s : State) : (complete s).rk = s.rk := rfl
@[simp] theorem complete_ksValid (s : State) : (complete s).ksValid = s.ksValid := rfl
@[simp] theorem complete_error (s : State) : (complete s).error = s.error := rfl
@[simp] theorem complete_decSeen (s : State) : (complete s).decSeen = s.decSeen := rfl
@[simp] theorem complete_truncWarn (s : State) : (complete s).truncWarn = s.truncWarn := rfl
@[simp] theorem complete_padWarn (s : State) : (complete s).padWarn = s.padWarn := rfl
@[simp] theorem complete_padlen (s : State) : (complete s).padlen = s.padlen := rfl
@[simp] theorem complete_pend (s : State) : (complete s).pend = none := rfl
@[simp] theorem complete_c (s : State) : (complete s).c = s.c := rfl
@[simp] theorem complete_d (s : State) : (complete s).d = s.d := rfl
@[simp] theorem complete_l (s : State) : (complete s).l = s.l := rfl
@[simp] theorem complete_r (s : State) : (complete s).r = s.r := rfl
@[simp] theorem complete_round (s : State) : (complete s).round = s.round := rfl
@[simp] theorem complete_schedule (s : State) : (complete s).schedule = s.schedule := rfl
@[simp] theorem complete_received (s : State) : (complete s).received = s.received := rfl
@[simp] theorem complete_draws (s : State) : (complete s).draws = s.draws := rfl

/-! ## `accept` -/

@[simp] theorem accept_key (w : Word) (s : State) : (accept w s).key = s.key := rfl
@[simp] theorem accept_iv (w : Word) (s : State) : (accept w s).iv = s.iv := rfl
@[simp] theorem accept_din (w : Word) (s : State) : (accept w s).din = s.din := rfl
@[simp] theorem accept_dout (w : Word) (s : State) : (accept w s).dout = s.dout := rfl
@[simp] theorem accept_chain (w : Word) (s : State) : (accept w s).chain = s.chain := rfl
@[simp] theorem accept_rk (w : Word) (s : State) : (accept w s).rk = s.rk := rfl
@[simp] theorem accept_ksValid (w : Word) (s : State) : (accept w s).ksValid = s.ksValid := rfl
@[simp] theorem accept_error (w : Word) (s : State) : (accept w s).error = s.error := rfl
@[simp] theorem accept_decSeen (w : Word) (s : State) : (accept w s).decSeen = s.decSeen := rfl
@[simp] theorem accept_truncWarn (w : Word) (s : State) : (accept w s).truncWarn = s.truncWarn := rfl
@[simp] theorem accept_padWarn (w : Word) (s : State) : (accept w s).padWarn = s.padWarn := rfl
@[simp] theorem accept_padlen (w : Word) (s : State) : (accept w s).padlen = s.padlen := rfl
@[simp] theorem accept_pend (w : Word) (s : State) : (accept w s).pend = some w := rfl
@[simp] theorem accept_c (w : Word) (s : State) : (accept w s).c = s.c := rfl
@[simp] theorem accept_d (w : Word) (s : State) : (accept w s).d = s.d := rfl
@[simp] theorem accept_l (w : Word) (s : State) : (accept w s).l = s.l := rfl
@[simp] theorem accept_r (w : Word) (s : State) : (accept w s).r = s.r := rfl
@[simp] theorem accept_round (w : Word) (s : State) : (accept w s).round = s.round := rfl
@[simp] theorem accept_schedule (w : Word) (s : State) : (accept w s).schedule = s.schedule := rfl
@[simp] theorem accept_received (w : Word) (s : State) : (accept w s).received = s.received := rfl
@[simp] theorem accept_draws (w : Word) (s : State) : (accept w s).draws = s.draws := rfl

/-! ## `leaveTransform` -/

@[simp] theorem leaveTransform_key (s : State) : (leaveTransform s).key = s.key := rfl
@[simp] theorem leaveTransform_iv (s : State) : (leaveTransform s).iv = s.iv := rfl
@[simp] theorem leaveTransform_din (s : State) : (leaveTransform s).din = s.din := rfl
@[simp] theorem leaveTransform_dout (s : State) : (leaveTransform s).dout = s.dout := rfl
@[simp] theorem leaveTransform_chain (s : State) : (leaveTransform s).chain = s.chain := rfl
@[simp] theorem leaveTransform_rk (s : State) : (leaveTransform s).rk = s.rk := rfl
@[simp] theorem leaveTransform_ksValid (s : State) : (leaveTransform s).ksValid = s.ksValid := rfl
@[simp] theorem leaveTransform_error (s : State) : (leaveTransform s).error = s.error := rfl
@[simp] theorem leaveTransform_decSeen (s : State) : (leaveTransform s).decSeen = s.decSeen := rfl
@[simp] theorem leaveTransform_truncWarn (s : State) : (leaveTransform s).truncWarn = s.truncWarn := rfl
@[simp] theorem leaveTransform_padWarn (s : State) : (leaveTransform s).padWarn = s.padWarn := rfl
@[simp] theorem leaveTransform_padlen (s : State) : (leaveTransform s).padlen = s.padlen := rfl
@[simp] theorem leaveTransform_pend (s : State) : (leaveTransform s).pend = s.pend := rfl
@[simp] theorem leaveTransform_c (s : State) : (leaveTransform s).c = s.c := rfl
@[simp] theorem leaveTransform_d (s : State) : (leaveTransform s).d = s.d := rfl
@[simp] theorem leaveTransform_l (s : State) : (leaveTransform s).l = Config.freeL s.draws := rfl
@[simp] theorem leaveTransform_r (s : State) : (leaveTransform s).r = Config.freeR s.draws := rfl
@[simp] theorem leaveTransform_round (s : State) : (leaveTransform s).round = Config.freeRound s.draws := rfl
@[simp] theorem leaveTransform_schedule (s : State) : (leaveTransform s).schedule = s.schedule := rfl
@[simp] theorem leaveTransform_received (s : State) : (leaveTransform s).received = s.received := rfl
@[simp] theorem leaveTransform_draws (s : State) : (leaveTransform s).draws = s.draws + 1 := rfl

/-! ## `receive` -/

@[simp] theorem receive_key (index : PortIndex) (v : Word) (s : State) : (receive index v s).key = s.key := rfl
@[simp] theorem receive_iv (index : PortIndex) (v : Word) (s : State) : (receive index v s).iv = s.iv := rfl
@[simp] theorem receive_din (index : PortIndex) (v : Word) (s : State) : (receive index v s).din = s.din := rfl
@[simp] theorem receive_dout (index : PortIndex) (v : Word) (s : State) : (receive index v s).dout = s.dout := rfl
@[simp] theorem receive_chain (index : PortIndex) (v : Word) (s : State) : (receive index v s).chain = s.chain := rfl
@[simp] theorem receive_rk (index : PortIndex) (v : Word) (s : State) : (receive index v s).rk = s.rk := rfl
@[simp] theorem receive_ksValid (index : PortIndex) (v : Word) (s : State) : (receive index v s).ksValid = s.ksValid := rfl
@[simp] theorem receive_error (index : PortIndex) (v : Word) (s : State) : (receive index v s).error = s.error := rfl
@[simp] theorem receive_decSeen (index : PortIndex) (v : Word) (s : State) : (receive index v s).decSeen = s.decSeen := rfl
@[simp] theorem receive_truncWarn (index : PortIndex) (v : Word) (s : State) : (receive index v s).truncWarn = s.truncWarn := rfl
@[simp] theorem receive_padWarn (index : PortIndex) (v : Word) (s : State) : (receive index v s).padWarn = s.padWarn := rfl
@[simp] theorem receive_padlen (index : PortIndex) (v : Word) (s : State) : (receive index v s).padlen = s.padlen := rfl
@[simp] theorem receive_pend (index : PortIndex) (v : Word) (s : State) : (receive index v s).pend = s.pend := rfl
@[simp] theorem receive_c (index : PortIndex) (v : Word) (s : State) : (receive index v s).c = s.c := rfl
@[simp] theorem receive_d (index : PortIndex) (v : Word) (s : State) : (receive index v s).d = s.d := rfl
@[simp] theorem receive_l (index : PortIndex) (v : Word) (s : State) : (receive index v s).l = s.l := rfl
@[simp] theorem receive_r (index : PortIndex) (v : Word) (s : State) : (receive index v s).r = s.r := rfl
@[simp] theorem receive_round (index : PortIndex) (v : Word) (s : State) : (receive index v s).round = s.round := rfl
@[simp] theorem receive_schedule (index : PortIndex) (v : Word) (s : State) : (receive index v s).schedule = s.schedule := rfl
@[simp] theorem receive_received (index : PortIndex) (v : Word) (s : State) : (receive index v s).received = (index, v) :: s.received := rfl
@[simp] theorem receive_draws (index : PortIndex) (v : Word) (s : State) : (receive index v s).draws = s.draws := rfl

/-! ## `resetAction` -/

@[simp] theorem resetAction_key (s : State) : (resetAction s).key = 0#64 := rfl
@[simp] theorem resetAction_iv (s : State) : (resetAction s).iv = 0#64 := rfl
@[simp] theorem resetAction_din (s : State) : (resetAction s).din = 0#64 := rfl
@[simp] theorem resetAction_dout (s : State) : (resetAction s).dout = 0#64 := rfl
@[simp] theorem resetAction_chain (s : State) : (resetAction s).chain = 0#64 := rfl
@[simp] theorem resetAction_rk (s : State) : (resetAction s).rk = Vector.replicate 16 0#48 := rfl
@[simp] theorem resetAction_ksValid (s : State) : (resetAction s).ksValid = false := rfl
@[simp] theorem resetAction_error (s : State) : (resetAction s).error = none := rfl
@[simp] theorem resetAction_decSeen (s : State) : (resetAction s).decSeen = false := rfl
@[simp] theorem resetAction_truncWarn (s : State) : (resetAction s).truncWarn = false := rfl
@[simp] theorem resetAction_padWarn (s : State) : (resetAction s).padWarn = false := rfl
@[simp] theorem resetAction_padlen (s : State) : (resetAction s).padlen = 0#4 := rfl
@[simp] theorem resetAction_pend (s : State) : (resetAction s).pend = none := rfl
@[simp] theorem resetAction_c (s : State) : (resetAction s).c = Config.freeC s.draws := rfl
@[simp] theorem resetAction_d (s : State) : (resetAction s).d = Config.freeD s.draws := rfl
@[simp] theorem resetAction_l (s : State) : (resetAction s).l = Config.freeL s.draws := rfl
@[simp] theorem resetAction_r (s : State) : (resetAction s).r = Config.freeR s.draws := rfl
@[simp] theorem resetAction_round (s : State) : (resetAction s).round = Config.freeRound s.draws := rfl
@[simp] theorem resetAction_schedule (s : State) : (resetAction s).schedule = s.schedule := rfl
@[simp] theorem resetAction_received (s : State) : (resetAction s).received = s.received := rfl
@[simp] theorem resetAction_draws (s : State) : (resetAction s).draws = s.draws + 1 := rfl

/-! ## The derived fields -/

@[simp] theorem complete_busy (s : State) : (complete s).busy = false := rfl
@[simp] theorem complete_err (s : State) : (complete s).err = s.err := rfl
@[simp] theorem accept_busy (w : Word) (s : State) : (accept w s).busy = true := rfl
@[simp] theorem accept_err (w : Word) (s : State) : (accept w s).err = s.err := rfl
@[simp] theorem leaveTransform_busy (s : State) : (leaveTransform s).busy = s.busy := rfl
@[simp] theorem leaveTransform_err (s : State) : (leaveTransform s).err = s.err := rfl
@[simp] theorem receive_busy (index : PortIndex) (v : Word) (s : State) : (receive index v s).busy = s.busy := rfl
@[simp] theorem receive_err (index : PortIndex) (v : Word) (s : State) : (receive index v s).err = s.err := rfl
@[simp] theorem resetAction_busy (s : State) : (resetAction s).busy = false := rfl
@[simp] theorem resetAction_err (s : State) : (resetAction s).err = false := rfl

theorem busy_eq_false_iff (s : State) : s.busy = false ↔ s.pend = none := by simp [State.busy]

theorem err_eq_false_iff (s : State) : s.err = false ↔ s.error = none := by simp [State.err]

end Sys2Proof.Machine
end

