-- ==== Sys2Proof/Laws/Ops.lean ====
section
/-! SUPPORT. What each shared operation can do, said once. -/

namespace Sys2Proof.Machine

/-! ## Errors -/

@[simp] theorem raiseError_of_none {s : State} (code : ErrCode) (h : s.error = none) :
    raiseError code s = { s with error := some code } := by
  simp [raiseError, h]

@[simp] theorem raiseError_of_some {s : State} {e : ErrCode} (code : ErrCode) (h : s.error = some e) :
    raiseError code s = s := by
  simp [raiseError, h]

/-- Raising an error changes nothing but the recorded error. -/
theorem raiseError_only_error (code : ErrCode) (s : State) :
    raiseError code s = { s with error := (raiseError code s).error } := by
  cases h : s.error with
  | none => simp [h]
  | some e =>
    rw [raiseError_of_some code h]

/-- After raising an error one is recorded. -/
theorem raiseError_err (code : ErrCode) (s : State) : (raiseError code s).err = true := by
  cases h : s.error <;> simp [h, State.err]

/-! ## The acceptance procedure -/

/-- Everything a write of CMD can do: the reset action, nothing, a recorded error, or the acceptance of a legal word that
is not SOFT_RESET, on an idle core without an error and with the keys a keyed command needs. -/
theorem submit_cases (w : Word) (s : State) :
    (w = softResetWord ∧ submit w s = resetAction s) ∨
    (w ≠ softResetWord ∧ s.err = true ∧ submit w s = s) ∨
    (w ≠ softResetWord ∧ s.error = none ∧ ∃ code, submit w s = { s with error := some code }) ∨
    (w ≠ softResetWord ∧ s.error = none ∧ s.pend = none ∧
      (∃ i, decodeCommand w = .instr i ∧ (isKeyed i = true → s.ksValid = true)) ∧
      submit w s = { s with pend := some w }) := by
  by_cases hw : w = softResetWord
  · exact .inl ⟨hw, by simp [submit, hw]⟩
  by_cases he : s.err = true
  · exact .inr (.inl ⟨hw, he, by simp [submit, hw, he]⟩)
  have hn : s.error = none := by simpa [State.err] using he
  by_cases hb : s.busy = true
  · exact .inr (.inr (.inl ⟨hw, hn, .busyWrite, by simp [submit, hw, he, hb, hn]⟩))
  have hp : s.pend = none := by simpa [State.busy] using hb
  cases hd : decodeCommand w with
  | reject why => exact .inr (.inr (.inl ⟨hw, hn, rejectError why, by simp [submit, hw, he, hb, hd, hn]⟩))
  | instr i =>
    by_cases hk : isKeyed i = true ∧ s.ksValid = false
    · exact .inr (.inr (.inl ⟨hw, hn, .noKeys, by simp [submit, hw, he, hb, hd, hk.1, hk.2, hn]⟩))
    · refine .inr (.inr (.inr ⟨hw, hn, hp, ⟨i, rfl, fun h => ?_⟩, ?_⟩))
      · by_contra hv
        exact hk ⟨h, by simpa using hv⟩
      · have hc : ¬((isKeyed i && !s.ksValid) = true) := by simpa using hk
        simp only [submit, hw, he, hb, hd, hc, if_false]
        rfl

/-! ## Host writes and reads -/

/-- Everything a write of KEY, IV or DIN can do. -/
theorem writeData_cases (store : State → State) (s : State) :
    (s.err = true ∧ writeData store s = s) ∨
    (s.error = none ∧ s.busy = true ∧ writeData store s = { s with error := some .busyWrite }) ∨
    (s.error = none ∧ s.pend = none ∧ writeData store s = store s) := by
  by_cases he : s.err = true
  · exact .inl ⟨he, by simp [writeData, he]⟩
  have hn : s.error = none := by simpa [State.err] using he
  by_cases hb : s.busy = true
  · exact .inr (.inl ⟨hn, hb, by simp [writeData, he, hb, hn]⟩)
  · exact .inr (.inr ⟨hn, by simpa [State.busy] using hb, by simp [writeData, he, hb]⟩)

@[simp] theorem writeIgnored_eq (v : Word) (s : State) : writeIgnored v s = s := rfl

theorem readOpen_of_idle {s : State} (index : PortIndex) (exact : Word) (busyValue : Word → Word)
    (h : s.busy = false) : readOpen index exact busyValue s = receive index exact s := by
  simp [readOpen, h]

theorem readOpen_of_busy {s : State} (index : PortIndex) (exact : Word) (busyValue : Word → Word)
    (h : s.busy = true) :
    readOpen index exact busyValue s =
      receive index (busyValue (Config.freeWord s.draws)) { s with draws := s.draws + 1 } := by
  simp [readOpen, h]

/-- An open read changes only what the host has received and the count of draws. -/
theorem readOpen_frame (index : PortIndex) (exact : Word) (busyValue : Word → Word) (s : State) :
    ∃ v n, readOpen index exact busyValue s = { s with received := (index, v) :: s.received, draws := n } := by
  cases h : s.busy
  · exact ⟨exact, s.draws, by rw [readOpen_of_idle _ _ _ h]; rfl⟩
  · exact ⟨_, s.draws + 1, by rw [readOpen_of_busy _ _ _ h]; rfl⟩

end Sys2Proof.Machine
end

