-- ==== Sys2Proof/Laws/PerInstr.lean ====
section
/-! SUPPORT. Lemmas about every instruction as syntax, one for each constructor. -/

namespace Sys2Proof.Laws.EncodedForm

/-- The code keeps RSVD = 0 (30_encoding.md R80), or is an access of a register that 20_memory.md R52 lists. -/
def inForm : Code → Prop
  | .command w => w.toNat < 4096
  | .bus (.write index _) => index.toNat < 24 ∧ index ≠ 7#5
  | .bus (.read index) => index.toNat < 24 ∧ index ≠ 7#5

/-- A well-formed instruction's code is in form. -/
def Statement (i : Instr) : Prop := i.wf = true → inForm (encode i)

theorem commandWord_lt (op : BitVec 8) (arg : BitVec 4) : (commandWord op arg).toNat < 4096 := by
  revert op arg
  decide

theorem nop : Statement .nop := fun _ => commandWord_lt _ _
theorem ksched : Statement .ksched := fun _ => commandWord_lt _ _
theorem cbcStart : Statement .cbcStart := fun _ => commandWord_lt _ _
theorem btFwd : Statement .btFwd := fun _ => commandWord_lt _ _
theorem btRev : Statement .btRev := fun _ => commandWord_lt _ _
theorem cbcEnc : Statement .cbcEnc := fun _ => commandWord_lt _ _
theorem cbcDec : Statement .cbcDec := fun _ => commandWord_lt _ _
theorem softReset : Statement .softReset := fun _ => commandWord_lt _ _
theorem roundF (arg : BitVec 4) : Statement (.roundF arg) := fun _ => commandWord_lt _ arg
theorem cbcEncFinal (arg : BitVec 4) : Statement (.cbcEncFinal arg) := fun _ => commandWord_lt _ arg
theorem cbcDecEnd (arg : BitVec 4) : Statement (.cbcDecEnd arg) := fun _ => commandWord_lt _ arg
theorem wrCmd (v : Word) : Statement (.wrCmd v) := fun _ => ⟨by decide, by decide⟩
theorem wrStatus (v : Word) : Statement (.wrStatus v) := fun _ => ⟨by decide, by decide⟩
theorem wrKey (v : Word) : Statement (.wrKey v) := fun _ => ⟨by decide, by decide⟩
theorem wrIv (v : Word) : Statement (.wrIv v) := fun _ => ⟨by decide, by decide⟩
theorem wrDin (v : Word) : Statement (.wrDin v) := fun _ => ⟨by decide, by decide⟩
theorem wrDout (v : Word) : Statement (.wrDout v) := fun _ => ⟨by decide, by decide⟩
theorem wrChain (v : Word) : Statement (.wrChain v) := fun _ => ⟨by decide, by decide⟩
theorem wrRk1 (v : Word) : Statement (.wrRk1 v) := fun _ => ⟨by decide, by decide⟩
theorem wrRk2 (v : Word) : Statement (.wrRk2 v) := fun _ => ⟨by decide, by decide⟩
theorem wrRk3 (v : Word) : Statement (.wrRk3 v) := fun _ => ⟨by decide, by decide⟩
theorem wrRk4 (v : Word) : Statement (.wrRk4 v) := fun _ => ⟨by decide, by decide⟩
theorem wrRk5 (v : Word) : Statement (.wrRk5 v) := fun _ => ⟨by decide, by decide⟩
theorem wrRk6 (v : Word) : Statement (.wrRk6 v) := fun _ => ⟨by decide, by decide⟩
theorem wrRk7 (v : Word) : Statement (.wrRk7 v) := fun _ => ⟨by decide, by decide⟩
theorem wrRk8 (v : Word) : Statement (.wrRk8 v) := fun _ => ⟨by decide, by decide⟩
theorem wrRk9 (v : Word) : Statement (.wrRk9 v) := fun _ => ⟨by decide, by decide⟩
theorem wrRk10 (v : Word) : Statement (.wrRk10 v) := fun _ => ⟨by decide, by decide⟩
theorem wrRk11 (v : Word) : Statement (.wrRk11 v) := fun _ => ⟨by decide, by decide⟩
theorem wrRk12 (v : Word) : Statement (.wrRk12 v) := fun _ => ⟨by decide, by decide⟩
theorem wrRk13 (v : Word) : Statement (.wrRk13 v) := fun _ => ⟨by decide, by decide⟩
theorem wrRk14 (v : Word) : Statement (.wrRk14 v) := fun _ => ⟨by decide, by decide⟩
theorem wrRk15 (v : Word) : Statement (.wrRk15 v) := fun _ => ⟨by decide, by decide⟩
theorem wrRk16 (v : Word) : Statement (.wrRk16 v) := fun _ => ⟨by decide, by decide⟩
theorem rdCmd : Statement .rdCmd := fun _ => ⟨by decide, by decide⟩
theorem rdStatus : Statement .rdStatus := fun _ => ⟨by decide, by decide⟩
theorem rdKey : Statement .rdKey := fun _ => ⟨by decide, by decide⟩
theorem rdIv : Statement .rdIv := fun _ => ⟨by decide, by decide⟩
theorem rdDin : Statement .rdDin := fun _ => ⟨by decide, by decide⟩
theorem rdDout : Statement .rdDout := fun _ => ⟨by decide, by decide⟩
theorem rdChain : Statement .rdChain := fun _ => ⟨by decide, by decide⟩
theorem rdRk1 : Statement .rdRk1 := fun _ => ⟨by decide, by decide⟩
theorem rdRk2 : Statement .rdRk2 := fun _ => ⟨by decide, by decide⟩
theorem rdRk3 : Statement .rdRk3 := fun _ => ⟨by decide, by decide⟩
theorem rdRk4 : Statement .rdRk4 := fun _ => ⟨by decide, by decide⟩
theorem rdRk5 : Statement .rdRk5 := fun _ => ⟨by decide, by decide⟩
theorem rdRk6 : Statement .rdRk6 := fun _ => ⟨by decide, by decide⟩
theorem rdRk7 : Statement .rdRk7 := fun _ => ⟨by decide, by decide⟩
theorem rdRk8 : Statement .rdRk8 := fun _ => ⟨by decide, by decide⟩
theorem rdRk9 : Statement .rdRk9 := fun _ => ⟨by decide, by decide⟩
theorem rdRk10 : Statement .rdRk10 := fun _ => ⟨by decide, by decide⟩
theorem rdRk11 : Statement .rdRk11 := fun _ => ⟨by decide, by decide⟩
theorem rdRk12 : Statement .rdRk12 := fun _ => ⟨by decide, by decide⟩
theorem rdRk13 : Statement .rdRk13 := fun _ => ⟨by decide, by decide⟩
theorem rdRk14 : Statement .rdRk14 := fun _ => ⟨by decide, by decide⟩
theorem rdRk15 : Statement .rdRk15 := fun _ => ⟨by decide, by decide⟩
theorem rdRk16 : Statement .rdRk16 := fun _ => ⟨by decide, by decide⟩

end Sys2Proof.Laws.EncodedForm
end

