-- ==== Sys2Proof/Laws/Step.lean ====
section
/-! SUPPORT. What a step can do: its turns, and that no meaning stops. -/

namespace Sys2Proof.Machine

/-- With the tables of the spec a step is the next turn. -/
@[simp] theorem step_eq (s : State) : step s = nextTurn s := by simp [step, tables_inRange]

theorem nextTurn_of_nil {s : State} (h : s.schedule = []) : nextTurn s = engineTurn s := by simp [nextTurn, h]

theorem nextTurn_of_cons {s : State} {turn : Turn} {rest : List Turn} (h : s.schedule = turn :: rest) :
    nextTurn s = takeTurn turn { s with schedule := rest } := by simp [nextTurn, h]

theorem engineTurn_of_idle {s : State} (h : s.pend = none) : engineTurn s = .next s := by simp [engineTurn, h]

theorem engineTurn_of_command {s : State} {w : Word} {i : Instr} (h : s.pend = some w)
    (hd : decodeCommand w = .instr i) : engineTurn s = exec i s := by simp [engineTurn, h, hd]

theorem hostTurn_of_instr {a : Access} {i : Instr} (h : decodeAccess a = .instr i) (s : State) :
    hostTurn a s = exec i s := by simp [hostTurn, h]

theorem hostTurn_of_reserved {a : Access} {why : Reject} (h : decodeAccess a = .reject why) (s : State) :
    hostTurn a s = .next (reservedAccess a s) := by simp [hostTurn, h]

/-- No meaning faults or refuses: every command's rule is total on its operands (60_exceptions.md R247), and every
access takes effect. -/
theorem exec_answers_next (i : Instr) (s : State) : ∃ t, exec i s = .next t := by
  cases i with
  | cbcDecEnd tail =>
    cases h : s.decSeen
    · exact ⟨_, by simp only [exec, execCbcDecEnd, h]; rfl⟩
    · exact ⟨_, by simp only [exec, execCbcDecEnd, h]; rfl⟩
  | _ => exact ⟨_, rfl⟩

/-- A host turn always answers a next state. -/
theorem hostTurn_answers_next (a : Access) (s : State) : ∃ t, hostTurn a s = .next t := by
  cases h : decodeAccess a with
  | instr i => simpa [hostTurn, h] using exec_answers_next i s
  | reject why => exact ⟨_, by simp only [hostTurn, h]; rfl⟩

/-! ## Everything a turn can do -/

/-- A write access runs one of the four writes that can have an effect, or changes nothing. -/
theorem write_turn_cases (index : PortIndex) (v : Word) :
    decodeWrite index v ∈ [.instr (.wrCmd v), .instr (.wrKey v), .instr (.wrIv v), .instr (.wrDin v)] ∨
      ∀ s, hostTurn (.write index v) s = .next s := by
  have each : ∀ n : Fin 32,
      decodeWrite (BitVec.ofFin n) v ∈ [.instr (.wrCmd v), .instr (.wrKey v), .instr (.wrIv v), .instr (.wrDin v)] ∨
        ∀ s, hostTurn (.write (BitVec.ofFin n) v) s = .next s := by
    intro n
    fin_cases n <;> first | (left; simp [decodeWrite]; done) | (right; intro s; rfl)
  exact each index.toFin

/-- Only the offset of CMD submits a command word. -/
theorem index_of_wrCmd {index : PortIndex} {v w : Word} (h : decodeWrite index v = .instr (.wrCmd w)) : index = 0#5 := by
  have each : ∀ n : Fin 32, decodeWrite (BitVec.ofFin n) v = .instr (.wrCmd w) → BitVec.ofFin n = 0#5 := by
    intro n
    fin_cases n <;> simp [decodeWrite]
  exact each index.toFin h

/-- A read access changes only what the host has received and the count of draws. -/
theorem read_turn_frame (index : PortIndex) (s : State) :
    ∃ v n, hostTurn (.read index) s = .next { s with received := (index, v) :: s.received, draws := n } := by
  have each : ∀ n : Fin 32, ∃ v k, hostTurn (.read (BitVec.ofFin n)) s =
      .next { s with received := (BitVec.ofFin n, v) :: s.received, draws := k } := by
    intro n
    fin_cases n
    all_goals first
      | exact ⟨_, s.draws, rfl⟩
      | (obtain ⟨v, k, h⟩ := readOpen_frame _ _ _ s
         exact ⟨v, k, congrArg Host.Outcome.next h⟩)
  exact each index.toFin

/-- Everything a host access other than the SOFT_RESET write can do: record an error, read, or, on an idle core without an
error, write the host's registers or have a legal command accepted. -/
theorem hostTurn_cases (a : Access) (s : State) (ha : a ≠ .write 0#5 softResetWord) :
    (∃ e, s.error = none ∧ hostTurn a s = .next { s with error := some e }) ∨
    (∃ rc n, hostTurn a s = .next { s with received := rc, draws := n }) ∨
    (s.error = none ∧ s.pend = none ∧ ∃ k valid iv din pend,
      hostTurn a s = .next { s with key := k, ksValid := valid, iv := iv, din := din, pend := pend } ∧
      (valid = s.ksValid ∧ k = s.key ∨ valid = false) ∧
      (pend = none ∨ (valid = s.ksValid ∧ ∃ w i, pend = some w ∧ decodeCommand w = .instr i ∧ w ≠ softResetWord ∧
        (isKeyed i = true → s.ksValid = true)))) := by
  cases a with
  | read index =>
    obtain ⟨v, n, h⟩ := read_turn_frame index s
    exact .inr (.inl ⟨_, _, h⟩)
  | write index v =>
    rcases write_turn_cases index v with h | h
    swap
    · exact .inr (.inl ⟨s.received, s.draws, h s⟩)
    simp only [List.mem_cons, List.not_mem_nil, or_false] at h
    have run : ∀ i, decodeWrite index v = .instr i → hostTurn (.write index v) s = exec i s :=
      fun i hi => hostTurn_of_instr (a := .write index v) hi s
    rcases h with h | h | h | h <;> rw [run _ h]
    · have hi := index_of_wrCmd h
      have hv : v ≠ softResetWord := by rintro rfl; exact ha (by rw [hi])
      rcases submit_cases v s with h' | ⟨_, _, h'⟩ | ⟨_, hn, e, h'⟩ | ⟨_, hn, hp, ⟨i, hi, hk⟩, h'⟩
      · exact absurd h'.1 hv
      · exact .inr (.inl ⟨s.received, s.draws, congrArg _ h'⟩)
      · exact .inl ⟨e, hn, congrArg _ h'⟩
      · exact .inr (.inr ⟨hn, hp, s.key, s.ksValid, s.iv, s.din, some v, congrArg _ h', .inl ⟨rfl, rfl⟩,
          .inr ⟨rfl, v, i, rfl, hi, hv, hk⟩⟩)
    · rcases writeData_cases (fun t => { t with key := v, ksValid := false }) s with ⟨_, h'⟩ | ⟨hn, _, h'⟩ | ⟨hn, hp, h'⟩
      · exact .inr (.inl ⟨s.received, s.draws, congrArg _ h'⟩)
      · exact .inl ⟨_, hn, congrArg _ h'⟩
      · exact .inr (.inr ⟨hn, hp, v, false, s.iv, s.din, s.pend, congrArg _ h', .inr rfl, .inl hp⟩)
    · rcases writeData_cases (fun t => { t with iv := v }) s with ⟨_, h'⟩ | ⟨hn, _, h'⟩ | ⟨hn, hp, h'⟩
      · exact .inr (.inl ⟨s.received, s.draws, congrArg _ h'⟩)
      · exact .inl ⟨_, hn, congrArg _ h'⟩
      · exact .inr (.inr ⟨hn, hp, s.key, s.ksValid, v, s.din, s.pend, congrArg _ h', .inl ⟨rfl, rfl⟩, .inl hp⟩)
    · rcases writeData_cases (fun t => { t with din := v }) s with ⟨_, h'⟩ | ⟨hn, _, h'⟩ | ⟨hn, hp, h'⟩
      · exact .inr (.inl ⟨s.received, s.draws, congrArg _ h'⟩)
      · exact .inl ⟨_, hn, congrArg _ h'⟩
      · exact .inr (.inr ⟨hn, hp, s.key, s.ksValid, s.iv, v, s.pend, congrArg _ h', .inl ⟨rfl, rfl⟩, .inl hp⟩)

/-- What every command but SOFT_RESET leaves alone, and that it completes. -/
theorem command_frame {i : Instr} {w : Word} {s t : State} (hw : encode i = .command w) (hi : i ≠ .softReset)
    (h : exec i s = .next t) :
    t.pend = none ∧ t.error = s.error ∧ t.key = s.key ∧ t.iv = s.iv ∧ t.din = s.din ∧ t.schedule = s.schedule ∧
      t.received = s.received := by
  cases i <;> simp only [encode, plainCommand] at hw <;> first | (cases hw; done) | skip
  all_goals simp only [exec, execNop, execKsched, execCbcStart, execBtFwd, execBtRev, execRoundF, execCbcEnc,
    execCbcEncFinal, execCbcDec, execCbcDecEnd] at h
  case softReset => exact absurd rfl hi
  case cbcDecEnd => split at h <;> cases h <;> simp
  all_goals cases h; simp [encryptAndChain]

/-! ## Runs -/

/-- A run whose first step answers a next state goes on from there. -/
theorem core_run_of_step {s t : State} (n : Nat) (h : step s = .next t) :
    Host.Core.run core (n + 1) s = Host.Core.run core n t := by
  have general : ∀ (M : Host.Core) (a b : M.State), M.step a = .next b → M.run (n + 1) a = M.run n b := by
    intro M a b hab
    simp only [Host.Core.run, hab]
  exact general core s t h

end Sys2Proof.Machine
end

