-- ==== Sys2Proof/Laws/Safety.lean ====
section
/-! SUPPORT. The end of a run (70_reset_and_hazards.md R279): what `runToEnd` answers. -/

namespace Sys2Proof.Machine

/-- The run has ended exactly when no access is left and PEND holds nothing. -/
theorem runEnded_iff (s : State) : s.runEnded = true ↔ (∀ a, .access a ∉ s.schedule) ∧ s.pend = none := by
  have turns : s.hostDone = true ↔ ∀ a, .access a ∉ s.schedule := by
    simp only [State.hostDone, List.all_eq_true]
    constructor
    · intro h a ha
      simpa [Turn.isAccess] using h _ ha
    · intro h turn ht
      cases turn with
      | access a => exact absurd ht (h a)
      | reset => rfl
      | engine => rfl
  simp [State.runEnded, turns, State.busy]

/-- An ended run goes no further. -/
theorem runToEnd_of_ended {s : State} (fuel : Nat) (h : s.runEnded = true) : runToEnd fuel s = .next s := by
  cases fuel with
  | zero => rfl
  | succ fuel => simp [runToEnd, h]

/-- A run that has not ended takes the step. -/
theorem runToEnd_of_step {s t : State} (fuel : Nat) (h : s.runEnded = false) (hs : step s = .next t) :
    runToEnd (fuel + 1) s = runToEnd fuel t := by
  simp only [runToEnd, h, hs, Bool.false_eq_true, if_false]

/-- The state that `runToEnd` answers is reached by the run, and no earlier state of the run has ended. -/
theorem runToEnd_first {fuel : Nat} {s e : State} (h : runToEnd fuel s = .next e) :
    ∃ n, n ≤ fuel ∧ Host.Core.run core n s = .next e ∧
      ∀ m u, m < n → Host.Core.run core m s = .next u → u.runEnded = false := by
  induction fuel generalizing s with
  | zero => exact ⟨0, Nat.le_refl _, h, fun m _ hm => absurd hm (Nat.not_lt_zero m)⟩
  | succ fuel ih =>
    cases hr : s.runEnded with
    | true =>
      rw [runToEnd_of_ended _ hr] at h
      exact ⟨0, Nat.zero_le _, h, fun m _ hm => absurd hm (Nat.not_lt_zero m)⟩
    | false =>
      cases hs : step s with
      | fault why => simp only [runToEnd, hr, hs, Bool.false_eq_true, if_false] at h; cases h
      | refused why => simp only [runToEnd, hr, hs, Bool.false_eq_true, if_false] at h; cases h
      | next t =>
        rw [runToEnd_of_step _ hr hs] at h
        obtain ⟨n, hn, hrun, first⟩ := ih h
        refine ⟨n + 1, Nat.succ_le_succ hn, (core_run_of_step n hs).trans hrun, fun m u hm hu => ?_⟩
        cases m with
        | zero => cases hu; exact hr
        | succ m => exact first m u (Nat.lt_of_succ_lt_succ hm) ((core_run_of_step m hs).symm.trans hu)

end Sys2Proof.Machine
end

