-- ==== Sys2Proof/Tests/Slice0.lean ====
section
/-! SUPPORT. Tests of the model, with every expected value taken from spec/ (95_test_vectors.md unless said otherwise), and
the witnesses: for each statement with hypotheses, a state and operands that meet them. -/

namespace Sys2Proof.Tests

open Sys2Proof.Machine

/-! ## Helpers -/

/-- The next state, where there is one. -/
def nextOf (o : Host.Outcome State Fault Refusal) : Option State :=
  match o with
  | .next t => some t
  | .fault _ => none
  | .refused _ => none

/-- A core after KSCHED (V-KS-2). -/
def ready : State :=
  { State.reset with rk := Spec.roundKeyFile, ksValid := true, c := 0x5555555#28, d := 0xAAAAAAA#28 }

/-- A core with a recorded ILLEGAL_OP. -/
def erred : State := { State.reset with error := some .illegalOp }

/-- A core with KSCHED in flight. -/
def busyKsched : State := { State.reset with pend := some 0x0000000000000001#64 }

/-- A core with CBC_ENC in flight. -/
def busyEnc : State := { ready with pend := some 0x0000000000000006#64, din := 0x0123456789ABCDEF#64 }

/-- STATUS after a write of CMD. -/
def statusAfter (w : Word) (s : State) : Option Word := (nextOf (exec (.wrCmd w) s)).map statusWord

/-! ## Well-formedness -/

theorem test_wf_refuses_cbcEncFinal_8 : Instr.wf (.cbcEncFinal 8#4) = false := by decide

theorem test_wf_refuses_cbcDecEnd_15 : Instr.wf (.cbcDecEnd 15#4) = false := by decide

theorem test_wf_accepts_argument_bounds :
    Instr.wf (.cbcEncFinal 7#4) = true ∧ Instr.wf (.cbcDecEnd 7#4) = true ∧ Instr.wf (.roundF 15#4) = true := by decide

/-! ## Decoding: words written out from 30_encoding.md R80 and R83 (ARG, then OP), offsets from 20_memory.md R52 -/

theorem test_decode_commands :
    decodeCommand 0b0000_00000000#64 = .instr .nop ∧ decodeCommand 0b0000_00000001#64 = .instr .ksched ∧
    decodeCommand 0b0000_00000010#64 = .instr .cbcStart ∧ decodeCommand 0b0000_00000011#64 = .instr .btFwd ∧
    decodeCommand 0b0000_00000100#64 = .instr .btRev ∧ decodeCommand 0b1111_00000101#64 = .instr (.roundF 15#4) ∧
    decodeCommand 0b0000_00000110#64 = .instr .cbcEnc ∧ decodeCommand 0b0101_00000111#64 = .instr (.cbcEncFinal 5#4) ∧
    decodeCommand 0b0000_00001000#64 = .instr .cbcDec ∧ decodeCommand 0b0011_00001001#64 = .instr (.cbcDecEnd 3#4) ∧
    decodeCommand 0b0000_00001111#64 = .instr .softReset := by decide

theorem test_decode_writes (v : Word) :
    [0x00, 0x08, 0x10, 0x18, 0x20, 0x28, 0x30, 0x40, 0x48, 0x50, 0x58, 0x60, 0x68, 0x70, 0x78, 0x80, 0x88, 0x90, 0x98, 0xA0,
      0xA8, 0xB0, 0xB8].map (fun off => decode (.bus (.write (BitVec.ofNat 5 (off / 8)) v))) =
    [.instr (.wrCmd v), .instr (.wrStatus v), .instr (.wrKey v), .instr (.wrIv v), .instr (.wrDin v), .instr (.wrDout v),
      .instr (.wrChain v), .instr (.wrRk1 v), .instr (.wrRk2 v), .instr (.wrRk3 v), .instr (.wrRk4 v), .instr (.wrRk5 v),
      .instr (.wrRk6 v), .instr (.wrRk7 v), .instr (.wrRk8 v), .instr (.wrRk9 v), .instr (.wrRk10 v), .instr (.wrRk11 v),
      .instr (.wrRk12 v), .instr (.wrRk13 v), .instr (.wrRk14 v), .instr (.wrRk15 v), .instr (.wrRk16 v)] := rfl

theorem test_decode_reads :
    [0x00, 0x08, 0x10, 0x18, 0x20, 0x28, 0x30, 0x40, 0x48, 0x50, 0x58, 0x60, 0x68, 0x70, 0x78, 0x80, 0x88, 0x90, 0x98, 0xA0,
      0xA8, 0xB0, 0xB8].map (fun off => decode (.bus (.read (BitVec.ofNat 5 (off / 8))))) =
    [.instr .rdCmd, .instr .rdStatus, .instr .rdKey, .instr .rdIv, .instr .rdDin, .instr .rdDout, .instr .rdChain,
      .instr .rdRk1, .instr .rdRk2, .instr .rdRk3, .instr .rdRk4, .instr .rdRk5, .instr .rdRk6, .instr .rdRk7,
      .instr .rdRk8, .instr .rdRk9, .instr .rdRk10, .instr .rdRk11, .instr .rdRk12, .instr .rdRk13, .instr .rdRk14,
      .instr .rdRk15, .instr .rdRk16] := by decide

theorem test_decode_reserved_offsets :
    decode (.bus (.read 7#5)) = .reject .reservedOffset ∧ decode (.bus (.read 24#5)) = .reject .reservedOffset ∧
    decode (.bus (.write 31#5 1#64)) = .reject .reservedOffset := by decide

theorem test_decode_rejects_in_order :
    decodeCommand 0x000000000000100A#64 = .reject .rsvdBits ∧ decodeCommand 0x8000000000000000#64 = .reject .rsvdBits ∧
    decodeCommand 0x000000000000000E#64 = .reject .illegalOp ∧ decodeCommand 0x000000000000010F#64 = .reject .badArg ∧
    decodeCommand 0x0000000000000801#64 = .reject .badArg := by decide

theorem test_decodeTableWord :
    decodeTableWord 64 0xF05 = some (.roundF 15#4) ∧ decodeTableWord 64 0x807 = none ∧
    decodeTableWord 8 0xB8 = some (.wrRk16 0#64) ∧ decodeTableWord 8 0x38 = none := by decide

theorem test_encode_words :
    encode (.roundF 15#4) = .command 0x0000000000000F05#64 ∧ encode (.cbcDecEnd 5#4) = .command 0x0000000000000509#64 ∧
    encode (.wrKey 5#64) = .bus (.write 2#5 5#64) := by decide

/-! ## Primitives and tables -/

/-- V-KS-3: the PC1 result of the example key. -/
theorem test_perm_pc1 : perm 0x133457799BBCDFF1#64 tablePC1 = 0xF0CCAAF556678F#56 := by decide +kernel

/-- V-BT-3. -/
theorem test_perm_ip_fp :
    perm 0x8000000000000000#64 tableIP = 0x0000000001000000#64 ∧ perm 0x0123456789ABCDEF#64 tableIP = 0xCC00CCFFF0AAF0AA#64 ∧
    perm 0x0000000100000000#64 tableFP = 0x0100000000000000#64 := by decide +kernel

/-- R104: an entry past its input is noticed, and so is one below it. -/
theorem test_tablesInRange :
    tablesInRange tables = true ∧ tablesInRange { tables with pc2 := tables.pc2.set 0 57 } = false ∧
    tablesInRange { tables with fp := tables.fp.set 63 0 } = false := by decide +kernel

/-- V-F: the expansion. -/
theorem test_perm_e :
    perm 0x12345678#32 tableE = 0x0A41A82AC3F0#48 ∧ perm 0x80000000#32 tableE = 0x400000000001#48 := by decide +kernel

/-- V-SUB-2. -/
theorem test_substitute :
    substitute 0x9153E5BCE642#48 = 0xDFED0790#32 ∧ substitute 0x0123456789AB#48 = 0x0045BE32#32 ∧
    substitute 0xFFFFFFFFFFFF#48 = 0x01234567#32 := by decide +kernel

/-- V-F. -/
theorem test_roundFunction :
    roundFunction tables 0x12345678#32 Spec.kA = 0xCED8973B#32 ∧ roundFunction tables 0x00000001#32 0#48 = 0x00800000#32 := by
  decide +kernel

/-- V-KS-1. -/
theorem test_keySchedule : keySchedule tables 0x133457799BBCDFF1#64 = Spec.roundKeys := by decide +kernel

/-- V-PAD. -/
theorem test_padCheck :
    [0x4142434445464701#64, 0x0102030405060202#64, 0x0707070707070707#64, 0x0102030405060702#64, 0x0909090909090909#64].map
      padCheck = [(true, 1#8), (true, 2#8), (true, 7#8), (false, 2#8), (false, 9#8)] := by decide

/-- V-MSG-2, L = 9, and its decryption. -/
theorem test_encryptMessage :
    encryptMessage tables Spec.roundKeyFile [0, 1, 2, 3, 4, 5, 6, 7, 8] 0#64 =
      [0x6B, 0x8B, 0x1E, 0xC7, 0xEE, 0xCA, 0x34, 0x37, 0x8F, 0x96, 0x26, 0xA0, 0xC8, 0xEA, 0xAE, 0xB3] := by
  decide +kernel

/-- V-DEC-1, the 13 bytes. -/
theorem test_decryptMessage :
    decryptMessage tables Spec.roundKeyFile
        [0x55, 0x79, 0xFE, 0xD1, 0xB2, 0x34, 0x32, 0xDA, 0x05, 0x4C, 0x26, 0x9A, 0xA7] 0#64 =
      { bytes := [0, 0, 0, 0, 0, 0, 0, 0], truncWarn := true, padWarn := true } := by
  decide +kernel

/-! ## Commands, one step each -/

/-- V-KS-2, run as the row of the opcode table from reset. -/
theorem test_ksched :
    (nextOf (step (State.reset.withFetchWord 64 0x1))).map (fun t => (t.rk, t.ksValid, statusWord t)) =
      some (Spec.roundKeyFile, true, 0x2#64) := by decide +kernel

/-- V-CBC 2. -/
theorem test_cbcStart :
    (nextOf (exec .cbcStart { ready with iv := 0x0123456789ABCDEF#64, padlen := 8#4, decSeen := true })).map
      (fun t => (t.chain, statusWord t)) = some (0x0123456789ABCDEF#64, 0x2#64) := by decide +kernel

/-- V-BT-1. -/
theorem test_btFwd :
    (nextOf (exec .btFwd { ready with din := 0x0123456789ABCDEF#64 })).map State.dout = some 0x51CEB70DD3B5A56F#64 := by
  decide +kernel

/-- V-BT-1. -/
theorem test_btRev :
    (nextOf (exec .btRev { ready with din := 0x0123456789ABCDEF#64 })).map State.dout = some 0x6B8806B3F363808A#64 := by
  decide +kernel

/-- V-RF: DIN[63:32] ignored, and RK2. -/
theorem test_roundF :
    (nextOf (exec (.roundF 0#4) { ready with din := 0xFFFFFFFF00000000#64 })).map State.dout = some 0x0000000052EF9D72#64 ∧
    (nextOf (exec (.roundF 1#4) { ready with din := 0x0000000012345678#64 })).map State.dout = some 0x00000000CED8973B#64 := by
  decide +kernel

/-- V-CBC 4, the block that equals CHAIN. -/
theorem test_cbcEnc :
    (nextOf (exec .cbcEnc { ready with din := 0x5579FED1B23432DA#64, chain := 0x5579FED1B23432DA#64 })).map
      (fun t => (t.dout, t.chain)) = some (0x5579FED1B23432DA#64, 0x5579FED1B23432DA#64) := by decide +kernel

/-- V-CBC 7: b7 is ignored, and DIN is unchanged. -/
theorem test_cbcEncFinal :
    (nextOf (exec (.cbcEncFinal 7#4) { ready with din := 0x4142434445464799#64 })).map (fun t => (t.dout, t.din)) =
      some (0x7B0154859DA01CEB#64, 0x4142434445464799#64) := by decide +kernel

/-- V-CBC 10: the old CHAIN is XORed in. -/
theorem test_cbcDec :
    (nextOf (exec .cbcDec { ready with din := 0x054C269AA71D4612#64, chain := 0x5579FED1B23432DA#64 })).map
      (fun t => (t.dout, t.chain, t.decSeen)) = some (0x0808080808080808#64, 0x054C269AA71D4612#64, true) := by
  decide +kernel

/-- V-CBC 12, 13 and 14. -/
theorem test_cbcDecEnd :
    (nextOf (exec (.cbcDecEnd 0#4) { ready with decSeen := true, dout := 0x0808080808080808#64 })).map statusWord =
      some 0x8000A#64 ∧
    (nextOf (exec (.cbcDecEnd 5#4) { ready with decSeen := true })).map statusWord = some 0x30A#64 ∧
    (nextOf (exec (.cbcDecEnd 5#4) ready)).map statusWord = some 0x102#64 := by decide +kernel

/-- R220. -/
theorem test_nop : nextOf (exec .nop { ready with pend := some 0#64 }) = some ready := by decide +kernel

/-- V-ERR-1: SOFT_RESET of a busy core. -/
theorem test_softReset :
    (statusAfter 0xF#64 busyKsched = some 0#64) ∧
    (nextOf (exec .softReset ready)).map (fun t => (statusWord t, t.rk)) = some (0#64, Vector.replicate 16 0#48) := by
  decide +kernel

/-! ## Accesses -/

/-- V-ERR-1 from reset. -/
theorem test_wrCmd_from_reset :
    [0x0A, 0xFF, 0x807, 0xA03, 0x1000, 0x100A, 0x3, 0xF05, 0x9].map (fun w => statusAfter (BitVec.ofNat 64 w) State.reset) =
      [some 0x14#64, some 0x14#64, some 0x24#64, some 0x24#64, some 0x34#64, some 0x34#64, some 0x44#64, some 0x44#64,
        some 0x01#64] := by decide

/-- V-ERR-1: a busy core, a fatal state. -/
theorem test_wrCmd_busy_and_fatal :
    statusAfter 0xA#64 busyKsched = some 0x55#64 ∧ statusAfter 0x1000#64 erred = some 0x14#64 ∧
    statusAfter 0xF#64 erred = some 0#64 := by decide

/-- V-ERR-2. -/
theorem test_wrKey :
    (nextOf (exec (.wrKey 5#64) ready)).map (fun t => (t.key, statusWord t, t.rk)) = some (5#64, 0#64, Spec.roundKeyFile) := by
  decide

/-- V-ERR-2: discarded while busy, ignored in the fatal state. -/
theorem test_wrDin :
    (nextOf (exec (.wrDin 5#64) busyEnc)).map (fun t => (t.din, t.error)) = some (0x0123456789ABCDEF#64, some .busyWrite) ∧
    nextOf (exec (.wrDin 5#64) erred) = some erred := by decide +kernel

/-- R224. -/
theorem test_wrIv : (nextOf (exec (.wrIv 5#64) ready)).map (fun t => (t.iv, t.chain)) = some (5#64, 0#64) := by decide

/-- V-ERR-2: a write of DOUT and of offset 0x38. -/
theorem test_writes_ignored :
    nextOf (exec (.wrDout 5#64) busyEnc) = some busyEnc ∧ nextOf (hostTurn (.write 7#5 5#64) busyEnc) = some busyEnc := by
  decide +kernel

/-- P1: the reads of RK1 and RK16. -/
theorem test_rdRk :
    (nextOf (exec .rdRk1 ready)).map State.received = some [(0x40#8 / 8 |>.setWidth 5, 0x00006EAC1A4319BD#64)] ∧
    (nextOf (exec .rdRk16 ready)).map State.received = some [(0xB8#8 / 8 |>.setWidth 5, 0x00009153E5BCE642#64)] := by
  decide

/-- R61: STATUS while busy keeps BUSY, ERR and ERRCODE. -/
theorem test_statusWhileBusy : statusWhileBusy busyKsched 0xFFFFFFFFFFFFFFFF#64 = 0xFFFFFFFFFFFFFF0B#64 := by decide

/-- V-ERR-2: a read of offset 0x38, 0xC0 and CMD. -/
theorem test_zero_reads :
    [0x38, 0xC0, 0x00].map (fun off => ((nextOf (hostTurn (.read (BitVec.ofNat 5 (off / 8))) busyEnc)).map
      (fun t => t.received.map Prod.snd))) = [some [0#64], some [0#64], some [0#64]] := by decide +kernel

/-! ## Steps -/

/-- The schedule first, then the engine; an idle core with nothing to do stays. -/
theorem test_step_engine_after_schedule :
    (nextOf (step busyKsched)).map State.ksValid = some true ∧ nextOf (step ready) = some ready := by decide +kernel

/-- A bus row of the opcode table from reset. -/
theorem test_withFetchWord_bus :
    nextOf (step (State.reset.withFetchWord 8 0x10)) = some State.reset := by decide +kernel

/-- R279: the run of a host whose one access is an illegal command ends with ERR = 1, a fault, though a reset follows. -/
theorem test_endOfRun_before_a_reset :
    (nextOf (State.endOfRun { State.reset with schedule := [.access (.write 0#5 0xA#64), .reset] })).map
      (fun t => (statusWord t, t.schedule, t.safeEnd)) = some (0x14#64, [.reset], false) := by decide +kernel

/-- R279: the run of a command goes on until it has completed, past the host's last access. -/
theorem test_endOfRun_completes_the_command :
    (nextOf (State.endOfRun { State.reset with schedule := [.access (.write 0#5 0x1#64)] })).map
      (fun t => (statusWord t, t.safeEnd)) = some (0x2#64, true) := by decide +kernel

/-- R86, R87: the turns of `run CBC_DEC_END, 5` when two reads find it in flight. -/
theorem test_run_line :
    lineTurns 2 (.run (.cbcDecEnd 5#4)) =
      [.access (.write 0#5 0x509#64), .access (.read 1#5), .access (.read 1#5), .engine, .access (.read 1#5)] := by decide

/-- R273: the accesses of the boot order, as P1 and P3 show them. -/
theorem test_boot_turns :
    programTurns (fun _ => 0) 0 (bootProgram 0x133457799BBCDFF1#64 7#64) =
      [.access (.write 2#5 0x133457799BBCDFF1#64), .access (.write 0#5 1#64), .engine, .access (.read 1#5),
        .access (.write 3#5 7#64), .access (.write 0#5 2#64), .engine, .access (.read 1#5)] := by decide

/-- R87: `expect` looks at the last value read. -/
theorem test_expect :
    expectMet 5#5 7#64 { ready with received := [(5#5, 7#64)] } = true ∧
    expectMet 5#5 8#64 { ready with received := [(5#5, 7#64)] } = false := by decide

/-! ## Witnesses: the hypotheses of each statement can be met -/

theorem ready_inv : ready.Inv := by
  refine ⟨fun w h => (by cases h), fun _ => ⟨by decide +kernel, rfl, rfl⟩, by decide, by decide⟩

theorem busyEnc_inv : busyEnc.Inv := by
  refine ⟨fun w h => ?_, fun _ => ⟨by decide +kernel, rfl, rfl⟩, by decide, by decide⟩
  cases h
  exact ⟨.cbcEnc, by decide, by decide, fun _ => rfl⟩

theorem erred_inv : erred.Inv := by
  refine ⟨fun w h => (by cases h), fun h => (by cases h), by decide, by decide⟩

theorem witness_DecodeOfEncodeIsTheInstruction :
    Instr.wf (.cbcEncFinal 7#4) = true ∧ Instr.wf (.wrRk16 0#64) = true := by decide

theorem witness_EncodeOfDecodeIsTheCode : decode (.command 0x709#64) = .instr (.cbcDecEnd 7#4) := by decide

theorem witness_LegalCommandOnAnIdleCoreIsAccepted :
    Instr.wf .cbcEnc = true ∧ encode .cbcEnc = .command 6#64 ∧ Instr.cbcEnc ≠ .softReset ∧ ready.error = none ∧
    ready.pend = none ∧ (isKeyed .cbcEnc = true → ready.ksValid = true) := by decide

theorem witness_FirstErrorSetsErrAndErrcode :
    (ErrCode.illegalOp, 1) ∈ [(ErrCode.illegalOp, 1), (.badArg, 2), (.rsvdBits, 3), (.noKeys, 4), (.busyWrite, 5)] ∧
    (ErrCode.busyWrite, 5) ∈ [(ErrCode.illegalOp, 1), (.badArg, 2), (.rsvdBits, 3), (.noKeys, 4), (.busyWrite, 5)] ∧
    ready.error = none ∧ erred.error ≠ none := by decide

theorem witness_FatalStateIgnoresEveryOtherWrite :
    erred.error ≠ none ∧ Access.write 0#5 0x1#64 ≠ Spec.softResetWrite := by decide

theorem witness_RecordedErrorIsKeptUntilReset :
    ∃ s t : State, s.pendLegal ∧ step s = .next t ∧ s.error = some .illegalOp ∧
      (∀ rest, s.schedule ≠ .reset :: rest) ∧ (∀ rest, s.schedule ≠ .access Spec.softResetWrite :: rest) := by
  refine ⟨{ erred with schedule := [.access (.write 4#5 1#64)] }, erred, fun w h => (by cases h), ?_, rfl, ?_, ?_⟩
  · rw [step_eq]; rfl
  · intro rest h; cases h
  · intro rest h; injection h with h; injection h with h; injection h with h; exact absurd h (by decide)

theorem witness_ErrorsArePreciseAndNeverFromTheEngine :
    (∃ t, hostTurn (.write 4#5 5#64) busyEnc = .next t ∧ t.error ≠ busyEnc.error) ∧ busyEnc.pendLegal :=
  ⟨⟨_, rfl, by decide⟩, busyEnc_inv.pending⟩

theorem witness_RecordedErrorDoesNotDisturbACommand :
    Spec.isCommand .cbcEnc ∧ Instr.cbcEnc ≠ .softReset ∧ ∃ t, exec .cbcEnc busyEnc = .next t :=
  ⟨⟨6#64, by decide⟩, by decide, _, rfl⟩

theorem witness_rounds_of_the_schedule : (1 ≤ 1 ∧ 1 ≤ 16) ∧ (1 ≤ 16 ∧ 16 ≤ 16) := by decide

theorem witness_KeyHasNoOtherObservableEffect :
    Instr.ksched ≠ .rdKey ∧ (∀ v, Instr.ksched ≠ .wrKey v) ∧ Instr.ksched ≠ .softReset ∧
      Instr.ksched ≠ .wrCmd Spec.softReset ∧ ∃ t, exec .ksched ready = .next t := by
  refine ⟨by decide, fun v h => (by cases h), by decide, by decide, _, rfl⟩

/-- The first and the last entry of PC2 (R123). -/
theorem witness_PermTakesTheBitAtTheTableEntry :
    tablePC2[1 - 1]? = some 14 ∧ tablePC2[48 - 1]? = some 32 := by decide

theorem witness_RotlMovesPositionsLeft :
    seqBit (rotl 0x8000000#28 1) 28 = true ∧ rotl 0x8000001#28 27 = 0xC000000#28 := by decide

theorem witness_BitsFromIntegerAreMostSignificantFirst :
    seqBit (bitsFromInteger 4 3) 1 = true ∧ seqBit (bitsFromInteger 1 3) 3 = true := by decide

theorem witness_BlockBytesAreInverse :
    0 + 8 ≤ ([1, 2, 3, 4, 5, 6, 7, 8] : List Byte).length ∧ 1 + 8 ≤ ([1, 2, 3, 4, 5, 6, 7, 8, 9] : List Byte).length := by
  decide

theorem witness_groups : 0 < 8 ∧ 7 < 8 ∧ 0 < 64 ∧ 63 < 64 := by decide

/-- Positions 1 and 64 of IP (R160). -/
theorem witness_FinalPermutationInvertsTheInitial :
    tableIP[1 - 1]? = some 58 ∧ tableIP[64 - 1]? = some 7 ∧ tableFP[1 - 1]? = some 40 ∧ tableFP[64 - 1]? = some 25 := by decide

theorem witness_BlockCommandsWriteTheTransform : ready.rk.toList.length = 16 := by decide

theorem witness_BlockCommandsUndoEachOther :
    ∃ t u : State, (Instr.btFwd, Instr.btRev) ∈ [(Instr.btFwd, Instr.btRev), (.btRev, .btFwd)] ∧
      exec .btFwd ready = .next t ∧ exec .btRev { t with din := t.dout } = .next u :=
  ⟨_, _, by decide, rfl, rfl⟩

/-- The three cases of CBC_DEC_END, with p = 1 and p = 8 (V-PAD) and invalid padding. -/
theorem witness_CbcDecEndReportsThePadding :
    ready.decSeen = false ∧ Spec.paddedBy 0x4142434445464701#64 1 ∧ Spec.paddedBy 0x0808080808080808#64 8 ∧
      ∀ p, ¬Spec.paddedBy 0#64 p := by
  refine ⟨rfl, ⟨by decide, by decide, fun k h1 h2 => ?_⟩, ⟨by decide, by decide, fun k _ h2 => ?_⟩, ?_⟩
  · have : k = 7 := by omega
    subst this; decide
  · have each : ∀ k : Fin 8, (blockByte 0x0808080808080808#64 k.val).toNat = 8 := by decide
    exact each ⟨k, by omega⟩
  · rintro p ⟨h1, h2, h3⟩
    have := h3 7 (by omega) (by omega)
    rw [show (blockByte 0#64 7).toNat = 0 by decide] at this
    omega

theorem witness_PadBlockAndPadCheckByBytes :
    (0 < 8 ∧ 7 < 8) ∧ (padCheck 0x4142434445464701#64).1 = true ∧ (padCheck 0x0102030405060709#64).1 = false := by decide

theorem witness_UnusedDinBytesDoNotMatter :
    Instr.wf (.cbcEncFinal 7#4) = true ∧
      (∀ k, k < (7#4).toNat → blockByte 0x4142434445464701#64 k = blockByte 0x4142434445464799#64 k) ∧
      ∃ t, exec (.cbcEncFinal 7#4) { ready with din := 0x4142434445464799#64 } = .next t := by
  exact ⟨by decide, by decide, _, rfl⟩

theorem witness_EncryptDriverComputesEncrypt :
    ∃ s : State, s.pend = none ∧ s.error = none ∧ s.ksValid = true ∧
      s.schedule = programTurns (fun _ => 1) 0 (encryptProgram [1, 2, 3] 0#64) :=
  ⟨{ ready with schedule := programTurns (fun _ => 1) 0 (encryptProgram [1, 2, 3] 0#64) }, rfl, rfl, rfl, rfl⟩

theorem witness_DecryptDriverComputesDecrypt :
    ∃ s : State, s.pend = none ∧ s.error = none ∧ s.ksValid = true ∧
      s.schedule = programTurns (fun _ => 1) 0 (decryptProgram [1, 2, 3, 4, 5, 6, 7, 8, 9]) :=
  ⟨{ ready with schedule := programTurns (fun _ => 1) 0 (decryptProgram [1, 2, 3, 4, 5, 6, 7, 8, 9]) }, rfl, rfl, rfl, rfl⟩

/-- For KeyWriteEndsTheSession, IvAndDinWritesStore and IdleReadsReturnTheRegisters. -/
theorem witness_idle_core : ready.error = none ∧ ready.pend = none := by decide

/-- For DataWriteWhileBusyIsDiscarded, BusyReadsAreOpen and OperandsAreStableInFlight. -/
theorem witness_busy_core :
    busyEnc.error = none ∧ busyEnc.pend ≠ none ∧ busyEnc.pendLegal ∧ (∃ u, engineTurn busyEnc = .next u) ∧
      Access.write 4#5 5#64 ≠ Spec.softResetWrite ∧ ∃ t, hostTurn (.write 4#5 5#64) busyEnc = .next t :=
  ⟨rfl, by decide, busyEnc_inv.pending, ⟨_, rfl⟩, by decide, _, rfl⟩

theorem witness_ReadOnlyAndReservedWritesAreIgnored :
    1#5 ∉ [0#5, 2#5, 3#5, 4#5] ∧ 7#5 ∉ [0#5, 2#5, 3#5, 4#5] ∧ 31#5 ∉ [0#5, 2#5, 3#5, 4#5] := by decide

theorem witness_CmdAndReservedReadsReturnZero :
    (0#5).toNat = 0 ∧ (7#5).toNat = 7 ∧ 24 ≤ (24#5).toNat ∧ 24 ≤ (31#5).toNat ∧ ¬24 ≤ (23#5).toNat := by decide

/-- For OnlyTheListedInstructionsWriteEachRegister. -/
theorem witness_register_writers :
    ∃ t, exec .ksched State.reset = .next t ∧ Instr.ksched ≠ .softReset ∧ Instr.ksched ≠ .wrCmd Spec.softReset ∧
      t.ksValid ≠ State.reset.ksValid :=
  ⟨_, rfl, by decide, by decide, by decide⟩

/-- The first and the last argument of each range, and the reserved indexes at the ends of their ranges. -/
theorem witness_WrittenOutCodesDecode :
    (0x00#64, Instr.nop) ∈ Spec.plainWords ∧ (0x0F#64, Instr.softReset) ∈ Spec.plainWords ∧
    (15#4).toNat < 16 ∧ (7#4).toNat < 8 ∧ (0xB8, Instr.rdRk16) ∈ Spec.readMap ∧ (0x00, Instr.wrCmd 1#64) ∈ Spec.writeMap 1#64 ∧
    Spec.indexOf 0x38 = 7#5 ∧ Spec.indexOf 0xC0 = 24#5 ∧ Spec.indexOf 0xF8 = 31#5 := by decide

/-- The reserved indexes at the ends of their ranges, and their neighbours. -/
theorem witness_reserved :
    Spec.reserved 7#5 ∧ Spec.reserved 24#5 ∧ Spec.reserved 31#5 ∧ ¬Spec.reserved 6#5 ∧ ¬Spec.reserved 8#5 ∧
      ¬Spec.reserved 23#5 := by
  simp [Spec.reserved]

/-- The clauses of StepRunsTheDecodedInstruction: what decodes, a command in PEND, and each kind of schedule. -/
theorem witness_StepRunsTheDecodedInstruction :
    decode (.bus (.read 5#5)) = .instr .rdDout ∧ busyEnc.pend = some 6#64 ∧ decode (.command 6#64) = .instr .cbcEnc ∧
      busyEnc.schedule = [] ∧ ready.schedule = [] ∧ ready.pend = none ∧
      (∀ turn ∈ [Turn.reset, .engine, .access (.read 7#5), .access (.write 31#5 1#64)],
        ({ busyEnc with schedule := [turn] } : State).schedule = turn :: []) := by
  refine ⟨by decide, rfl, by decide, rfl, rfl, rfl, fun turn _ => rfl⟩

theorem witness_StepKeepsTheInvariant : busyEnc.Inv ∧ ∃ t, step busyEnc = .next t :=
  ⟨busyEnc_inv, _, step_eq busyEnc⟩

theorem witness_EveryRunEndsWithNoCommandInFlight :
    busyEnc.Inv ∧ busyEnc.runEnded = false ∧ ready.Inv ∧ ready.runEnded = true :=
  ⟨busyEnc_inv, by decide, ready_inv, by decide⟩

/-- CBC_ENC in flight, with one write before the engine's turn. -/
def busyEncThenWrite : State := { busyEnc with schedule := [.access (.write 4#5 5#64), .engine] }

theorem witness_ResultDoesNotDependOnLatency :
    ∃ s t u : State, s.pendLegal ∧ s.pend ≠ none ∧ Spec.softResetWrite ∉ [Access.write 4#5 5#64] ∧
      s.schedule = [Access.write 4#5 5#64].map Turn.access ++ [.engine] ∧ engineTurn s = .next t ∧
      Host.Core.run core s.schedule.length s = .next u := by
  obtain ⟨t, ht⟩ : ∃ t, engineTurn busyEncThenWrite = .next t := ⟨_, rfl⟩
  obtain ⟨u, hu⟩ : ∃ u, Host.Core.run core 2 busyEncThenWrite = .next u :=
    ⟨_, (core_run_of_step 1 ((step_eq _).trans rfl)).trans ((core_run_of_step 0 ((step_eq _).trans rfl)).trans rfl)⟩
  refine ⟨busyEncThenWrite, t, u, fun w h => ?_, by decide, by decide, rfl, ht, hu⟩
  cases h
  exact ⟨.cbcEnc, by decide, by decide, fun _ => rfl⟩

end Sys2Proof.Tests
end

section
/-! PROOFS. The statements about the state: the BUSY field of STATUS and the reset values (10_state.md R29, R30, R42). -/

namespace Sys2Proof.Machine

/-! ## The fields of STATUS -/

/-- A field placed at bit `lo` holds its own bits from `lo` upwards and 0 below (30_encoding.md R80, 10_state.md R29). -/
theorem getLsbD_fieldAt {n : Nat} (lo : Nat) (v : BitVec n) {j : Nat} (hj : j < 64) :
    (fieldAt lo v).getLsbD j = (decide (lo ≤ j) && v.getLsbD (j - lo)) := by
  have hlt : j < lo ↔ ¬ lo ≤ j := Nat.not_le.symm
  by_cases h : lo ≤ j <;> simp [fieldAt, hj, h, hlt]

/-- Bit 0 of STATUS is BUSY (R29): every other field is placed above it. -/
theorem statusWord_getLsbD_zero (s : State) : (statusWord s).getLsbD 0 = s.busy := by
  have hbit : (0 : Nat) < 64 := by decide
  simp only [statusWord, BitVec.getLsbD_or, getLsbD_fieldAt _ _ hbit]
  simp

theorem busy_eq_true_iff (s : State) : s.busy = true ↔ ∃ w, s.pend = some w := Option.isSome_iff_exists

/-- Settles O51: bit 0 of STATUS is BUSY, which the model reads from PEND. -/
theorem busyExactlyWhilePendHoldsACommand : Obligations.BusyExactlyWhilePendHoldsACommand := by
  intro s
  rw [statusWord_getLsbD_zero, busy_eq_true_iff]

/-! ## The reset values -/

theorem reset_rk_get (r : Fin 16) : State.reset.rk.get r = 0#48 := Vector.getElem_replicate r.isLt

/-- STATUS with every field clear is 0: its reserved bits read 0 as well (R29). -/
theorem statusWord_reset : statusWord State.reset = 0#64 := by decide

/-- Settles O54: the fields by the definition of `State.reset`, the key file and STATUS by the two lemmas above. -/
theorem resetValues : Obligations.ResetValues :=
  ⟨rfl, rfl, rfl, rfl, rfl, reset_rk_get, statusWord_reset, rfl, rfl, rfl, rfl, rfl, rfl, rfl⟩

end Sys2Proof.Machine
end

section
/-! PROOFS. The statements about the register port: writes that are ignored and reads that return 0
(20_memory.md R55, R56). -/

namespace Sys2Proof.Machine

/-! ## Where the register map has an effect, and where it has no register (20_memory.md R52) -/

/-- The four writes that can have an effect are the writes of CMD, KEY, IV and DIN. -/
theorem index_of_effective_write {index : PortIndex} {v : Word}
    (h : decodeWrite index v ∈ [.instr (.wrCmd v), .instr (.wrKey v), .instr (.wrIv v), .instr (.wrDin v)]) :
    index ∈ [0#5, 2#5, 3#5, 4#5] := by
  have each : ∀ n : Fin 32,
      decodeWrite (BitVec.ofFin n) v ∈ [.instr (.wrCmd v), .instr (.wrKey v), .instr (.wrIv v), .instr (.wrDin v)] →
        BitVec.ofFin n ∈ [0#5, 2#5, 3#5, 4#5] := by
    intro n
    fin_cases n <;> simp [decodeWrite]
  exact each index.toFin h

theorem decodeRead_of_reserved {index : PortIndex} (h : Spec.reserved index) :
    decodeRead index = .reject .reservedOffset := by
  have each : ∀ n : Fin 32, Spec.reserved (BitVec.ofFin n) → decodeRead (BitVec.ofFin n) = .reject .reservedOffset := by
    intro n
    fin_cases n <;> simp [Spec.reserved, decodeRead]
  exact each index.toFin h

/-! ## Ignored writes (R55) -/

theorem hostTurn_write_of_not_writable {index : PortIndex} (v : Word) (s : State) (h : index ∉ [0#5, 2#5, 3#5, 4#5]) :
    hostTurn (.write index v) s = .next s :=
  (write_turn_cases index v).resolve_left (fun effective => h (index_of_effective_write effective)) s

/-- Settles O44: each of the 19 instructions is `writeIgnored`, and by the register map no other offset has an effect. -/
theorem readOnlyAndReservedWritesAreIgnored : Obligations.ReadOnlyAndReservedWritesAreIgnored := by
  refine ⟨fun v s i hi => ?_, fun index v s h => hostTurn_write_of_not_writable v s h⟩
  fin_cases hi <;> exact congrArg Host.Outcome.next (writeIgnored_eq v s)

/-! ## Reads that return 0 (R56) -/

theorem hostTurn_read_cmd (s : State) : hostTurn (.read 0#5) s = .next (receive 0#5 0#64 s) :=
  hostTurn_of_instr (a := .read 0#5) (i := .rdCmd) rfl s

theorem hostTurn_read_of_reserved {index : PortIndex} (h : Spec.reserved index) (s : State) :
    hostTurn (.read index) s = .next (receive index 0#64 s) :=
  hostTurn_of_reserved (a := .read index) (decodeRead_of_reserved h) s

/-- Settles O46: CMD by its instruction, a reserved offset by the host's own turn, which answers 0. -/
theorem cmdAndReservedReadsReturnZero : Obligations.CmdAndReservedReadsReturnZero := by
  rintro index s (hcmd | hreserved)
  · obtain rfl : index = 0#5 := BitVec.eq_of_toNat_eq hcmd
    exact hostTurn_read_cmd s
  · exact hostTurn_read_of_reserved hreserved s

end Sys2Proof.Machine
end

section
/-! PROOFS. The statements about the bit-sequence primitives: `Perm`, the bits of an integer, and blocks as bytes
(40_bitvector.md R100, R102 to R104). -/

namespace Sys2Proof.Machine

/-! ## `Perm` (R104) -/

theorem seqBit_perm {n m : Nat} (s : BitVec n) (t : Vector Nat m) {i x : Nat} (h1 : 1 ≤ i) (h2 : i ≤ m)
    (hx : t[i - 1]? = some x) : seqBit (perm s t) i = seqBit s x := by
  have hentry : t.toList.getD (i - 1) 0 = x := by
    rw [List.getD_eq_getElem?_getD, Vector.getElem?_toList, hx, Option.getD_some]
  rw [perm, seqBit_seqOf m _ h1 h2, hentry]

theorem entriesIn_iff {m n : Nat} {t : Vector Nat m} :
    entriesIn n t = true ↔ ∀ x ∈ t.toList, 1 ≤ x ∧ x ≤ n := by
  simp only [entriesIn, List.all_eq_true, decide_eq_true_eq]

theorem tablesInRange_iff {T : Tables} :
    tablesInRange T = true ↔
      entriesIn 64 T.pc1 = true ∧ entriesIn 56 T.pc2 = true ∧ entriesIn 32 T.e = true ∧ entriesIn 32 T.p = true ∧
        entriesIn 64 T.ip = true ∧ entriesIn 64 T.fp = true := by
  simp only [tablesInRange, Bool.and_eq_true, and_assoc]

/-- Settles O17: positions by `seqBit_perm`, and the ranges from the model's own check of the tables. -/
theorem permTakesTheBitAtTheTableEntry : Obligations.PermTakesTheBitAtTheTableEntry := by
  refine ⟨fun n m s t i x h1 h2 hx => seqBit_perm s t h1 h2 hx, fun x => ?_⟩
  obtain ⟨hpc1, hpc2, he, hp, hip, hfp⟩ := tablesInRange_iff.mp tables_inRange
  exact ⟨entriesIn_iff.mp hpc1 x, entriesIn_iff.mp hpc2 x, entriesIn_iff.mp he x, entriesIn_iff.mp hp x,
    entriesIn_iff.mp hip x, entriesIn_iff.mp hfp x⟩

/-! ## The bits of an integer (R100) -/

theorem seqBit_bitsFromInteger (v : Nat) {w i : Nat} (h1 : 1 ≤ i) (h2 : i ≤ w) :
    seqBit (bitsFromInteger v w) i = v.testBit (w - i) := by
  rw [bitsFromInteger, seqBit_seqOf w _ h1 h2, Nat.testBit_eq_decide_div_mod_eq, Nat.shiftRight_eq_div_pow]
  rfl

theorem seqBit_eq_testBit {w : Nat} (x : BitVec w) {i : Nat} (h1 : 1 ≤ i) (h2 : i ≤ w) :
    seqBit x i = x.toNat.testBit (w - i) := by
  rw [seqBit, if_pos ⟨h1, h2⟩, BitVec.testBit_toNat]

/-- Settles O19: position i is bit w - i of the integer, and a sequence is determined by its positions. -/
theorem bitsFromIntegerAreMostSignificantFirst : Obligations.BitsFromIntegerAreMostSignificantFirst := by
  refine ⟨fun v w i h1 h2 => ?_, fun w x => seq_ext fun i h1 h2 => ?_⟩
  · rw [seqBit_bitsFromInteger v h1 h2, Nat.toNat_testBit]
  · rw [seqBit_bitsFromInteger x.toNat h1 h2, seqBit_eq_testBit x h1 h2]

/-! ## Blocks and bytes (R102, R103) -/

theorem getElem?_bytesFromBits64 (w : Word) {j : Nat} (hj : j < 8) :
    (bytesFromBits64 w)[j]? = some (blockByte w j) := by
  simp [bytesFromBits64, hj]

theorem getD_bytesFromBits64 (w : Word) {j : Nat} (hj : j < 8) : (bytesFromBits64 w).getD j 0#8 = blockByte w j := by
  rw [List.getD_eq_getElem?_getD, getElem?_bytesFromBits64 w hj, Option.getD_some]

theorem blockByte_bitsFromBytes (m : List Byte) (k : Nat) {j : Nat} (hj : j < 8) :
    blockByte (bitsFromBytes m k) j = m.getD (k + j) 0#8 := blockByte_blockOf _ hj

theorem blockByte_eq_ofNat (w : Word) (j : Nat) : blockByte w j = BitVec.ofNat 8 (w.toNat / 2 ^ (56 - 8 * j)) := by
  rw [blockByte, BitVec.extractLsb', Nat.shiftRight_eq_div_pow]

theorem bitsFromBytes_bytesFromBits64 (w : Word) : bitsFromBytes (bytesFromBits64 w) 0 = w := by
  refine block_ext fun j hj => ?_
  rw [blockByte_bitsFromBytes _ 0 hj, Nat.zero_add, getD_bytesFromBits64 w hj]

theorem bytesFromBits64_bitsFromBytes {m : List Byte} {k : Nat} (h : k + 8 ≤ m.length) :
    bytesFromBits64 (bitsFromBytes m k) = (m.drop k).take 8 := by
  refine List.ext_getElem? fun j => ?_
  by_cases hj : j < 8
  · have hin : k + j < m.length := by omega
    rw [getElem?_bytesFromBits64 _ hj, blockByte_bitsFromBytes m k hj, List.getElem?_take_of_lt hj, List.getElem?_drop,
      List.getD_eq_getElem?_getD, List.getElem?_eq_getElem hin, Option.getD_some]
  · have hout : 8 ≤ j := Nat.not_lt.mp hj
    rw [List.getElem?_eq_none (by simpa using hout), List.getElem?_eq_none (by simp [hout])]

/-- Settles O20: both inverses and the value of a byte, each a lemma above. -/
theorem blockBytesAreInverse : Obligations.BlockBytesAreInverse := by
  refine ⟨bitsFromBytes_bytesFromBits64, fun m k h => bytesFromBits64_bitsFromBytes h, fun w j hj => ?_⟩
  rw [getElem?_bytesFromBits64 w hj, blockByte_eq_ofNat]

end Sys2Proof.Machine
end

section
/-! PROOFS. The statement about the round function: the substitution of each group (42_feistel.md R142). -/

namespace Sys2Proof.Machine

/-! ## The substitution by arithmetic (R142) -/

/-- The mask 0xF is the remainder by 16, and the shift by 2 the quotient by 4. -/
theorem toNat_nibble (i v : Nat) : (nibble i v).toNat = ((v * (i + 1)) ^^^ (v / 4)) % 16 := by
  have mask (n : Nat) : n &&& 0xF = n % 16 := Nat.and_two_pow_sub_one_eq_mod n 4
  rw [nibble, mask, BitVec.toNat_ofNat, Nat.mod_mod, Nat.shiftRight_eq_div_pow]

theorem sixBits_eq_div_mod (x : BitVec 48) (i : Nat) : sixBits x i = x.toNat / 2 ^ (42 - 6 * i) % 64 := by
  rw [sixBits, toInt, BitVec.extractLsb'_toNat, Nat.shiftRight_eq_div_pow]

/-- Four bits from bit 28 - 4i on are positions 4i+1..4i+4, group i: bit b of them is position 4i + (4 - b). -/
theorem extractLsb'_substitute (x : BitVec 48) {i : Nat} (hi : i < 8) :
    (substitute x).extractLsb' (28 - 4 * i) 4 = nibble i (sixBits x i) := by
  refine BitVec.eq_of_getLsbD_eq fun b hb => ?_
  have hin : 28 - 4 * i + b < 32 := by omega
  have hgroup : (32 - (28 - 4 * i + b) - 1) / 4 = i := by omega
  have hbit : 3 - (32 - (28 - 4 * i + b) - 1) % 4 = b := by omega
  rw [BitVec.getLsbD_extractLsb', decide_eq_true hb, Bool.true_and, substitute, getLsbD_seqOf 32 _ hin, hgroup, hbit]

/-- Settles O21: the four bits of a group are its nibble, and the nibble and the group's six bits are arithmetic. -/
theorem substitutionOfEachGroup : Obligations.SubstitutionOfEachGroup := by
  intro x i hi
  calc (substitute x).toNat / 2 ^ (28 - 4 * i) % 16
      = ((substitute x).extractLsb' (28 - 4 * i) 4).toNat := by
        rw [BitVec.extractLsb'_toNat, Nat.shiftRight_eq_div_pow]
    _ = (nibble i (sixBits x i)).toNat := by rw [extractLsb'_substitute x hi]
    _ = _ := by rw [toNat_nibble, sixBits_eq_div_mod]

end Sys2Proof.Machine
end

section
/-! PROOFS. The statement about the block transform: it is an involution (43_block_transform.md R165). -/

namespace Sys2Proof.Machine

/-! ## IP and FP undo each other (R161) -/

/-- A table `u` that sends each position to the place where `t` takes it from undoes `t` (40_bitvector.md R104). -/
theorem perm_perm_of_inverse {n : Nat} {t u : Vector Nat n} (hrange : entriesIn n u = true)
    (hinv : ∀ j, j < n → u[j]?.bind (fun x => t[x - 1]?) = some (j + 1)) (s : BitVec n) :
    perm (perm s t) u = s := by
  refine seq_ext fun i h1 h2 => ?_
  obtain ⟨x, hu, ht⟩ := Option.bind_eq_some_iff.mp (hinv (i - 1) (by omega))
  have hx : x ∈ u.toList := Vector.mem_toList_iff.mpr (Vector.mem_of_getElem? hu)
  obtain ⟨hx1, hxn⟩ := entriesIn_iff.mp hrange x hx
  rw [Nat.sub_add_cancel h1] at ht
  rw [seqBit_perm _ u h1 h2 hu, seqBit_perm s t hx1 hxn ht]

@[simp] theorem perm_fp_perm_ip (s : Word) : perm (perm s tables.ip) tables.fp = s := by
  obtain ⟨-, -, -, -, -, hfp⟩ := tablesInRange_iff.mp tables_inRange
  exact perm_perm_of_inverse hfp (by decide) s

@[simp] theorem perm_ip_perm_fp (s : Word) : perm (perm s tables.fp) tables.ip = s := by
  obtain ⟨-, -, -, -, hip, -⟩ := tablesInRange_iff.mp tables_inRange
  exact perm_perm_of_inverse hip (by decide) s

/-! ## The rounds between exchanged halves (R162) -/

/-- A round on the exchanged halves with the same key undoes the round: F is applied to the same half both times. -/
theorem feistelRound_swap_feistelRound (T : Tables) (lr : Half × Half) (k : RoundKey) :
    feistelRound T (feistelRound T lr k).swap k = lr.swap := by
  simp [feistelRound, Prod.swap]

theorem feistelRounds_cons (T : Tables) (k : RoundKey) (ks : List RoundKey) (lr : Half × Half) :
    feistelRounds T (k :: ks) lr = feistelRounds T ks (feistelRound T lr k) := List.foldl_cons ..

theorem feistelRounds_concat (T : Tables) (ks : List RoundKey) (k : RoundKey) (lr : Half × Half) :
    feistelRounds T (ks ++ [k]) lr = feistelRound T (feistelRounds T ks lr) k := List.foldl_concat ..

/-- The reversed keys on the exchanged halves undo the rounds, from the last round to the first. -/
theorem feistelRounds_reverse_swap_feistelRounds (T : Tables) (keys : List RoundKey) (lr : Half × Half) :
    feistelRounds T keys.reverse (feistelRounds T keys lr).swap = lr.swap := by
  induction keys generalizing lr with
  | nil => rfl
  | cons k ks ih =>
    rw [List.reverse_cons, feistelRounds_concat, feistelRounds_cons, ih, feistelRound_swap_feistelRound]

/-! ## The transform (R165) -/

/-- The two halves of IP(B), with which the rounds begin (R162). -/
def permutedHalves (T : Tables) (b : Word) : Half × Half := (leftHalf (perm b T.ip), rightHalf (perm b T.ip))

theorem blockTransform_eq (T : Tables) (b : Word) (keys : List RoundKey) :
    blockTransform T b keys =
      perm (joinHalves (feistelRounds T keys (permutedHalves T b)).2 (feistelRounds T keys (permutedHalves T b)).1)
        T.fp := rfl

theorem perm_fp_joinHalves_permutedHalves (b : Word) :
    perm (joinHalves (permutedHalves tables b).1 (permutedHalves tables b).2) tables.fp = b := by
  rw [permutedHalves, joinHalves_halves, perm_fp_perm_ip]

/-- The pre-output exchanges the halves (R163), so a second transform begins with the first one's last halves exchanged. -/
theorem permutedHalves_blockTransform (b : Word) (keys : List RoundKey) :
    permutedHalves tables (blockTransform tables b keys) =
      (feistelRounds tables keys (permutedHalves tables b)).swap := by
  rw [blockTransform_eq, permutedHalves, perm_ip_perm_fp, leftHalf_joinHalves, rightHalf_joinHalves, Prod.swap]

theorem blockTransform_reverse_blockTransform (b : Word) (keys : List RoundKey) :
    blockTransform tables (blockTransform tables b keys) keys.reverse = b := by
  rw [blockTransform_eq, permutedHalves_blockTransform, feistelRounds_reverse_swap_feistelRounds]
  exact perm_fp_joinHalves_permutedHalves b

theorem keysRev_eq_reverse_keysFwd (rk : KeyFile) : keysRev rk = (keysFwd rk).reverse := rfl

theorem keysFwd_eq_reverse_keysRev (rk : KeyFile) : keysFwd rk = (keysRev rk).reverse :=
  List.reverse_reverse _ |>.symm

/-- Settles O26: the core's two key orders are each other's reverse (R164), so they are cases of the general one. -/
theorem blockTransformIsAnInvolution : Obligations.BlockTransformIsAnInvolution := by
  refine ⟨blockTransform_reverse_blockTransform, fun b rk => ⟨?_, ?_⟩⟩
  · rw [keysRev_eq_reverse_keysFwd, blockTransform_reverse_blockTransform]
  · rw [keysFwd_eq_reverse_keysRev, blockTransform_reverse_blockTransform]

end Sys2Proof.Machine
end

section
/-! PROOFS. The statements about the padding: PadBlock and PadCheck by bytes, and the padded message
(44_cbc.md R180, R185). -/

namespace Sys2Proof.Machine

/-! ## PadBlock and PadCheck (R180) -/

theorem blockByte_padBlock (w : Word) (n : Nat) {k : Nat} (hk : k < 8) :
    blockByte (padBlock w n) k = if k < n then blockByte w k else BitVec.ofNat 8 (8 - n) := blockByte_blockOf _ hk

/-- A padding of 8 bytes keeps none of the block: every byte is 8. -/
theorem padBlock_zero (w : Word) : padBlock w 0 = 0x0808080808080808#64 := by
  have eights : ∀ k < 8, blockByte 0x0808080808080808#64 k = 8#8 := by decide
  refine block_ext fun k hk => ?_
  rw [blockByte_padBlock w 0 hk, if_neg k.not_lt_zero, eights k hk]

theorem padCheck_snd (w : Word) : (padCheck w).2 = blockByte w 7 := rfl

/-- The check of a byte k holds outside the last b7 bytes or when b_k = b7, so it holds of all eight exactly when the last
b7 bytes equal b7. -/
theorem padCheck_fst_iff (w : Word) :
    (padCheck w).1 = true ↔ 1 ≤ (blockByte w 7).toNat ∧ (blockByte w 7).toNat ≤ 8 ∧
      ∀ k, 8 - (blockByte w 7).toNat ≤ k → k ≤ 7 → blockByte w k = blockByte w 7 := by
  simp only [padCheck, Bool.and_eq_true, decide_eq_true_eq, List.all_eq_true, List.mem_range, Bool.or_eq_true,
    beq_iff_eq, and_assoc]
  refine and_congr_right fun _ => and_congr_right fun _ => forall_congr' fun k => ⟨fun h hlast hk => ?_, fun h hk => ?_⟩
  · exact (h (Nat.lt_succ_of_le hk)).resolve_left (Nat.not_lt.mpr hlast)
  · exact (Nat.lt_or_ge k _).imp_right fun hlast => h hlast (Nat.le_of_lt_succ hk)

/-- Settles O33: the bytes of PadBlock, its block of eights and the validity of PadCheck, each a lemma above. -/
theorem padBlockAndPadCheckByBytes : Obligations.PadBlockAndPadCheckByBytes :=
  ⟨fun w n _ _ hk => blockByte_padBlock w n hk, padBlock_zero, fun w => ⟨padCheck_snd w, padCheck_fst_iff w⟩⟩

/-! ## The padded message (R185) -/

theorem paddingCount_eq (len : Nat) : paddingCount len = 8 - len % 8 := rfl

theorem paddingCount_pos (len : Nat) : 1 ≤ paddingCount len := by
  rw [paddingCount_eq]
  omega

theorem paddingCount_le (len : Nat) : paddingCount len ≤ 8 := Nat.sub_le 8 _

theorem length_padMessage (m : List Byte) : (padMessage m).length = m.length + paddingCount m.length := by
  rw [padMessage, List.length_append, List.length_replicate]

/-- The two forms of the rule are one: the padding of a message of whole blocks is 8 - 0 bytes. -/
theorem length_padMessage_cases (m : List Byte) :
    (padMessage m).length = if m.length % 8 ≠ 0 then m.length + (8 - m.length % 8) else m.length + 8 := by
  rw [length_padMessage, paddingCount_eq]
  split
  · rfl
  · next hwhole => rw [not_not.mp hwhole]

theorem length_padMessage_mod (m : List Byte) : (padMessage m).length % 8 = 0 := by
  rw [length_padMessage, paddingCount_eq]
  omega

theorem length_padMessage_pos (m : List Byte) : 0 < (padMessage m).length := by
  rw [length_padMessage]
  exact Nat.add_pos_right _ (paddingCount_pos _)

@[simp] theorem take_padMessage (m : List Byte) : (padMessage m).take m.length = m := List.take_left

theorem drop_padMessage (m : List Byte) :
    (padMessage m).drop m.length = List.replicate (paddingCount m.length) (BitVec.ofNat 8 (paddingCount m.length)) :=
  List.drop_left

/-- A padding count is at most 8, so it is the value of its byte. -/
theorem toNat_ofNat_paddingCount (len : Nat) : (BitVec.ofNat 8 (paddingCount len)).toNat = paddingCount len := by
  have hle := paddingCount_le len
  rw [BitVec.toNat_ofNat, Nat.mod_eq_of_lt (by omega)]

theorem toNat_of_mem_drop_padMessage {m : List Byte} {b : Byte} (hb : b ∈ (padMessage m).drop m.length) :
    b.toNat = paddingCount m.length := by
  rw [drop_padMessage] at hb
  rw [List.eq_of_mem_replicate hb, toNat_ofNat_paddingCount]

/-- Settles O36: the count, the length and the two parts of the padded message, each a lemma above. -/
theorem paddedMessageLength : Obligations.PaddedMessageLength := fun m =>
  ⟨paddingCount_pos _, paddingCount_le _, paddingCount_eq _, length_padMessage_cases m, length_padMessage_mod m,
    length_padMessage_pos m, take_padMessage m, fun _ hb => toNat_of_mem_drop_padMessage hb⟩

end Sys2Proof.Machine
end

section
/-! PROOFS. The statement about the host's writes: IV and DIN on an idle core without an error (45_control.md R224). -/

namespace Sys2Proof.Machine

/-! ## Writes of KEY, IV and DIN on an idle core without an error (R223, R224) -/

theorem writeData_of_idle (store : State → State) {s : State} (herr : s.error = none) (hpend : s.pend = none) :
    writeData store s = store s := by
  simp [writeData, (err_eq_false_iff s).mpr herr, (busy_eq_false_iff s).mpr hpend]

theorem exec_wrIv_of_idle (v : Word) {s : State} (herr : s.error = none) (hpend : s.pend = none) :
    exec (.wrIv v) s = .next { s with iv := v } :=
  congrArg Host.Outcome.next (writeData_of_idle (fun t => { t with iv := v }) herr hpend)

theorem exec_wrDin_of_idle (v : Word) {s : State} (herr : s.error = none) (hpend : s.pend = none) :
    exec (.wrDin v) s = .next { s with din := v } :=
  congrArg Host.Outcome.next (writeData_of_idle (fun t => { t with din := v }) herr hpend)

/-! ## The offsets of IV and DIN (20_memory.md R52) -/

theorem hostTurn_write_iv (v : Word) (s : State) : hostTurn (.write 3#5 v) s = exec (.wrIv v) s :=
  hostTurn_of_instr (a := .write 3#5 v) rfl s

theorem hostTurn_write_din (v : Word) (s : State) : hostTurn (.write 4#5 v) s = exec (.wrDin v) s :=
  hostTurn_of_instr (a := .write 4#5 v) rfl s

/-- Settles O42: an idle core without an error stores the value, and the offsets decode to the same two instructions. -/
theorem ivAndDinWritesStore : Obligations.IvAndDinWritesStore := by
  intro v s herr hpend
  have hiv := exec_wrIv_of_idle v herr hpend
  have hdin := exec_wrDin_of_idle v herr hpend
  exact ⟨hiv, hdin, (hostTurn_write_iv v s).trans hiv, (hostTurn_write_din v s).trans hdin⟩

end Sys2Proof.Machine
end

section
/-! PROOFS. The statement about a write of CMD: the eight steps of the acceptance procedure (60_exceptions.md R245). -/

namespace Sys2Proof.Machine

/-! ## The fields of a command word as numbers (30_encoding.md R80, R81) -/

theorem toNat_opField (w : Word) : (opField w).toNat = Spec.op w := by
  rw [opField, BitVec.extractLsb'_toNat, Nat.shiftRight_zero]
  rfl

theorem toNat_argField (w : Word) : (argField w).toNat = Spec.arg w := by
  rw [argField, BitVec.extractLsb'_toNat, Nat.shiftRight_eq_div_pow]
  rfl

/-- RSVD has 52 bits, so the part of the word above bit 11 is its value. -/
theorem toNat_rsvdField (w : Word) : (rsvdField w).toNat = Spec.rsvd w := by
  have hlt : w.toNat / 2 ^ 12 < 2 ^ 52 := by omega
  rw [rsvdField, BitVec.extractLsb'_toNat, Nat.shiftRight_eq_div_pow, Nat.mod_eq_of_lt hlt]
  rfl

theorem rsvdField_eq_zero_iff (w : Word) : rsvdField w = 0#52 ↔ Spec.rsvd w = 0 := by
  rw [← toNat_rsvdField, ← BitVec.toNat_inj, BitVec.toNat_zero]

/-! ## The rows of the opcode map (R82, R83) -/

/-- The check of a command without an argument, in the form `Spec.argInRange` gives it. -/
theorem withoutArg_eq (i : Instr) (arg : BitVec 4) :
    withoutArg i arg = if decide (arg.toNat = 0) = true then .instr i else .reject .badArg := by
  simp only [withoutArg, decide_eq_true_eq, ← BitVec.toNat_inj, BitVec.toNat_zero]

theorem opInTable_iff (o : Nat) : Spec.opInTable o = true ↔ o ∈ [0, 1, 2, 3, 4, 5, 6, 7, 8, 9, 15] := by
  simp only [Spec.opInTable, decide_eq_true_eq, List.mem_cons, List.not_mem_nil, or_false]
  omega

/-- An OP outside the table meets no row of the map, only its last arm. -/
theorem decodeOp_of_not_opInTable {op : BitVec 8} (h : Spec.opInTable op.toNat = false) (arg : BitVec 4) :
    decodeOp op arg = .reject .illegalOp := by
  have hout := mt (opInTable_iff op.toNat).mpr (Bool.eq_false_iff.mp h)
  unfold decodeOp
  split
  case h_12 => rfl
  all_goals next hrow => simp [hrow] at hout

/-- Each row of the opcode map checks ARG against the range of its OP, and its instruction is keyed as the row says. -/
theorem decodeOp_of_opInTable {op : BitVec 8} (h : Spec.opInTable op.toNat = true) (arg : BitVec 4) :
    ∃ i, isKeyed i = Spec.keyedOp op.toNat ∧
      decodeOp op arg = if Spec.argInRange op.toNat arg.toNat = true then .instr i else .reject .badArg := by
  rw [opInTable_iff] at h
  unfold decodeOp
  generalize op.toNat = o at h ⊢
  fin_cases h
  · exact ⟨.nop, rfl, withoutArg_eq _ arg⟩
  · exact ⟨.ksched, rfl, withoutArg_eq _ arg⟩
  · exact ⟨.cbcStart, rfl, withoutArg_eq _ arg⟩
  · exact ⟨.btFwd, rfl, withoutArg_eq _ arg⟩
  · exact ⟨.btRev, rfl, withoutArg_eq _ arg⟩
  · exact ⟨.roundF arg, rfl, (if_pos (decide_eq_true arg.isLt)).symm⟩
  · exact ⟨.cbcEnc, rfl, withoutArg_eq _ arg⟩
  · exact ⟨.cbcEncFinal arg, rfl, rfl⟩
  · exact ⟨.cbcDec, rfl, withoutArg_eq _ arg⟩
  · exact ⟨.cbcDecEnd arg, rfl, rfl⟩
  · exact ⟨.softReset, rfl, withoutArg_eq _ arg⟩

/-! ## Decoding a command word, by its fields (R84, R85) -/

theorem decodeCommand_of_rsvd {w : Word} (h : Spec.rsvd w ≠ 0) : decodeCommand w = .reject .rsvdBits :=
  if_neg (mt (rsvdField_eq_zero_iff w).mp h)

theorem decodeCommand_of_rsvd_zero {w : Word} (h : Spec.rsvd w = 0) :
    decodeCommand w = decodeOp (opField w) (argField w) :=
  if_pos ((rsvdField_eq_zero_iff w).mpr h)

theorem decodeCommand_of_not_opInTable {w : Word} (hrsvd : Spec.rsvd w = 0)
    (hop : Spec.opInTable (Spec.op w) = false) : decodeCommand w = .reject .illegalOp := by
  rw [← toNat_opField] at hop
  rw [decodeCommand_of_rsvd_zero hrsvd, decodeOp_of_not_opInTable hop]

theorem decodeCommand_of_opInTable {w : Word} (hrsvd : Spec.rsvd w = 0) (hop : Spec.opInTable (Spec.op w) = true) :
    ∃ i, isKeyed i = Spec.keyedOp (Spec.op w) ∧
      decodeCommand w = if Spec.argInRange (Spec.op w) (Spec.arg w) = true then .instr i else .reject .badArg := by
  rw [← toNat_opField] at hop
  rw [decodeCommand_of_rsvd_zero hrsvd, ← toNat_opField, ← toNat_argField]
  exact decodeOp_of_opInTable hop (argField w)

theorem decodeCommand_of_not_argInRange {w : Word} (hrsvd : Spec.rsvd w = 0)
    (hop : Spec.opInTable (Spec.op w) = true) (harg : Spec.argInRange (Spec.op w) (Spec.arg w) = false) :
    decodeCommand w = .reject .badArg := by
  obtain ⟨i, -, hd⟩ := decodeCommand_of_opInTable hrsvd hop
  rw [hd, if_neg (Bool.eq_false_iff.mp harg)]

theorem decodeCommand_of_argInRange {w : Word} (hrsvd : Spec.rsvd w = 0)
    (hop : Spec.opInTable (Spec.op w) = true) (harg : Spec.argInRange (Spec.op w) (Spec.arg w) = true) :
    ∃ i, isKeyed i = Spec.keyedOp (Spec.op w) ∧ decodeCommand w = .instr i := by
  obtain ⟨i, hkeyed, hd⟩ := decodeCommand_of_opInTable hrsvd hop
  exact ⟨i, hkeyed, hd.trans (if_pos harg)⟩

/-! ## The steps of `submit` (R245) -/

theorem exec_wrCmd (w : Word) (s : State) : exec (.wrCmd w) s = .next (submit w s) := rfl

theorem submit_of_softReset {w : Word} (hw : w = softResetWord) (s : State) : submit w s = resetAction s := if_pos hw

theorem submit_of_error {w : Word} {s : State} (hw : w ≠ softResetWord) (herr : s.error ≠ none) : submit w s = s := by
  have he : s.err = true := Option.isSome_iff_ne_none.mpr herr
  simp [submit, hw, he]

theorem submit_of_busy {w : Word} {s : State} (hw : w ≠ softResetWord) (herr : s.error = none) (hpend : s.pend ≠ none) :
    submit w s = { s with error := some .busyWrite } := by
  have he := (err_eq_false_iff s).mpr herr
  have hb : s.busy = true := Option.isSome_iff_ne_none.mpr hpend
  simp [submit, hw, he, hb, herr]

theorem submit_of_reject {w : Word} {s : State} {why : Reject} (hw : w ≠ softResetWord) (herr : s.error = none)
    (hpend : s.pend = none) (hd : decodeCommand w = .reject why) :
    submit w s = { s with error := some (rejectError why) } := by
  have he := (err_eq_false_iff s).mpr herr
  have hb := (busy_eq_false_iff s).mpr hpend
  simp [submit, hw, he, hb, hd, herr]

theorem submit_of_instr {w : Word} {s : State} {i : Instr} (hw : w ≠ softResetWord) (herr : s.error = none)
    (hpend : s.pend = none) (hd : decodeCommand w = .instr i) :
    submit w s = if isKeyed i = true ∧ s.ksValid = false then { s with error := some .noKeys }
      else { s with pend := some w } := by
  have he := (err_eq_false_iff s).mpr herr
  have hb := (busy_eq_false_iff s).mpr hpend
  simp [submit, hw, he, hb, hd, herr, accept]

/-- Settles O5: the first three steps do not read the word's fields; steps 4 to 6 are what the decoder answers for them,
and steps 7 and 8 are the two ends of a legal word. -/
theorem commandWriteFollowsTheEightSteps : Obligations.CommandWriteFollowsTheEightSteps := by
  intro w s
  refine (exec_wrCmd w s).trans (congrArg Host.Outcome.next ?_)
  by_cases hw : w = Spec.softReset
  · rw [if_pos hw, submit_of_softReset hw]
  rw [if_neg hw]
  obtain herr | herr := ne_or_eq s.error none
  · rw [if_pos herr, submit_of_error hw herr]
  rw [if_neg (not_not.mpr herr)]
  obtain hpend | hpend := ne_or_eq s.pend none
  · rw [if_pos hpend, submit_of_busy hw herr hpend]
  rw [if_neg (not_not.mpr hpend)]
  obtain hrsvd | hrsvd := ne_or_eq (Spec.rsvd w) 0
  · rw [if_pos hrsvd, submit_of_reject hw herr hpend (decodeCommand_of_rsvd hrsvd), rejectError]
  rw [if_neg (not_not.mpr hrsvd)]
  by_cases hop : Spec.opInTable (Spec.op w) = false
  · rw [if_pos hop, submit_of_reject hw herr hpend (decodeCommand_of_not_opInTable hrsvd hop), rejectError]
  rw [if_neg hop]
  rw [Bool.not_eq_false] at hop
  by_cases harg : Spec.argInRange (Spec.op w) (Spec.arg w) = false
  · rw [if_pos harg, submit_of_reject hw herr hpend (decodeCommand_of_not_argInRange hrsvd hop harg), rejectError]
  rw [if_neg harg]
  rw [Bool.not_eq_false] at harg
  obtain ⟨i, hkeyed, hd⟩ := decodeCommand_of_argInRange hrsvd hop harg
  rw [submit_of_instr hw herr hpend hd, hkeyed]

end Sys2Proof.Machine
end

section
/-! PROOFS. The statements about the encoding: the decoder and the encoder undo each other, the legal command words and the
rows of the opcode and register maps, and the acceptance of a legal command (30_encoding.md R83, R84; 20_memory.md R52;
60_exceptions.md R242). -/

namespace Sys2Proof.Machine

/-! ## The word of a command by its fields (30_encoding.md R80) -/

theorem toNat_commandWord (op : BitVec 8) (arg : BitVec 4) :
    (commandWord op arg).toNat = arg.toNat * 256 + op.toNat := by
  have hop : (fieldAt 0 op).toNat = op.toNat := by
    have hlt : op.toNat < 256 := op.isLt
    simp only [fieldAt, BitVec.toNat_shiftLeft, BitVec.toNat_setWidth, Nat.shiftLeft_eq]
    omega
  have harg : (fieldAt 8 arg).toNat = 2 ^ 8 * arg.toNat := by
    have hlt : arg.toNat < 16 := arg.isLt
    simp only [fieldAt, BitVec.toNat_shiftLeft, BitVec.toNat_setWidth, Nat.shiftLeft_eq]
    omega
  rw [commandWord, BitVec.toNat_or, hop, harg, Nat.or_comm, ← Nat.two_pow_add_eq_or_of_lt op.isLt, Nat.mul_comm]

/-- A word with RSVD = 0 is the command word of its own OP and ARG. -/
theorem commandWord_fields {w : Word} (h : Spec.rsvd w = 0) : commandWord (opField w) (argField w) = w := by
  refine BitVec.eq_of_toNat_eq ?_
  rw [toNat_commandWord, toNat_argField, toNat_opField]
  simp only [Spec.rsvd, Spec.arg, Spec.op] at h ⊢
  omega

theorem opField_commandWord (op : BitVec 8) (arg : BitVec 4) : opField (commandWord op arg) = op := by
  refine BitVec.eq_of_toNat_eq ?_
  have hlt : op.toNat < 256 := op.isLt
  rw [toNat_opField, Spec.op, toNat_commandWord]
  omega

theorem argField_commandWord (op : BitVec 8) (arg : BitVec 4) : argField (commandWord op arg) = arg := by
  refine BitVec.eq_of_toNat_eq ?_
  have hop : op.toNat < 256 := op.isLt
  have harg : arg.toNat < 16 := arg.isLt
  rw [toNat_argField, Spec.arg, toNat_commandWord]
  omega

theorem rsvd_commandWord (op : BitVec 8) (arg : BitVec 4) : Spec.rsvd (commandWord op arg) = 0 := by
  have hop : op.toNat < 256 := op.isLt
  have harg : arg.toNat < 16 := arg.isLt
  rw [Spec.rsvd, toNat_commandWord]
  omega

/-- A command word is decoded by the opcode map applied to its fields. -/
theorem decodeCommand_commandWord (op : BitVec 8) (arg : BitVec 4) :
    decodeCommand (commandWord op arg) = decodeOp op arg := by
  rw [decodeCommand_of_rsvd_zero (rsvd_commandWord op arg), opField_commandWord, argField_commandWord]

/-! ## Decoding undoes encoding -/

/-- A command's word is decoded by the opcode map, where its row answers the instruction; the offset of an access is its
row of the register map. -/
theorem decode_encode {i : Instr} (h : i.wf = true) : decode (encode i) = .instr i := by
  cases i with
  | cbcEncFinal n => exact (decodeCommand_commandWord 0x07#8 n).trans (if_pos h)
  | cbcDecEnd tail => exact (decodeCommand_commandWord 0x09#8 tail).trans (if_pos h)
  | roundF arg => exact decodeCommand_commandWord 0x05#8 arg
  | nop => exact decodeCommand_commandWord 0x00#8 0#4
  | ksched => exact decodeCommand_commandWord 0x01#8 0#4
  | cbcStart => exact decodeCommand_commandWord 0x02#8 0#4
  | btFwd => exact decodeCommand_commandWord 0x03#8 0#4
  | btRev => exact decodeCommand_commandWord 0x04#8 0#4
  | cbcEnc => exact decodeCommand_commandWord 0x06#8 0#4
  | cbcDec => exact decodeCommand_commandWord 0x08#8 0#4
  | softReset => exact decodeCommand_commandWord 0x0F#8 0#4
  | _ => rfl

/-- Settles O1, by the rows of the opcode map and of the register map. -/
theorem decodeOfEncodeIsTheInstruction : Obligations.DecodeOfEncodeIsTheInstruction := fun _ h => decode_encode h

/-! ## Encoding undoes decoding -/

theorem eq_of_withoutArg {i j : Instr} {arg : BitVec 4} (h : withoutArg i arg = .instr j) : j = i ∧ arg = 0#4 := by
  rw [withoutArg] at h
  split at h
  · next harg =>
    cases h
    exact ⟨rfl, harg⟩
  · cases h

theorem eq_of_withSmallArg {f : BitVec 4 → Instr} {j : Instr} {arg : BitVec 4} (h : withSmallArg f arg = .instr j) :
    j = f arg ∧ argUpTo7 arg = true := by
  rw [withSmallArg] at h
  split at h
  · next harg =>
    cases h
    exact ⟨rfl, harg⟩
  · cases h

/-- A row without an argument answers a well-formed instruction only for the word the encoder gives it. -/
theorem encode_of_withoutArg {i j : Instr} {op : BitVec 8} {arg : BitVec 4} {n : Nat} (hop : op.toNat = n)
    (hwf : i.wf = true) (hcode : encode i = plainCommand (BitVec.ofNat 8 n)) (h : withoutArg i arg = .instr j) :
    j.wf = true ∧ encode j = .command (commandWord op arg) := by
  obtain ⟨rfl, rfl⟩ := eq_of_withoutArg h
  rw [← hop, BitVec.ofNat_toNat, BitVec.setWidth_eq] at hcode
  exact ⟨hwf, hcode⟩

/-- Each row of the opcode map answers the instruction that is encoded by that row's OP and the same ARG. -/
theorem encode_of_decodeOp {op : BitVec 8} {arg : BitVec 4} {i : Instr} (h : decodeOp op arg = .instr i) :
    i.wf = true ∧ encode i = .command (commandWord op arg) := by
  unfold decodeOp at h
  split at h
  case h_12 => cases h
  case h_6 hop =>
    obtain rfl : op = 0x05#8 := BitVec.eq_of_toNat_eq hop
    cases h
    exact ⟨rfl, rfl⟩
  case h_8 hop =>
    obtain rfl : op = 0x07#8 := BitVec.eq_of_toNat_eq hop
    obtain ⟨rfl, harg⟩ := eq_of_withSmallArg h
    exact ⟨harg, rfl⟩
  case h_10 hop =>
    obtain rfl : op = 0x09#8 := BitVec.eq_of_toNat_eq hop
    obtain ⟨rfl, harg⟩ := eq_of_withSmallArg h
    exact ⟨harg, rfl⟩
  all_goals next hop => exact encode_of_withoutArg hop rfl rfl h

theorem encode_of_decodeCommand {w : Word} {i : Instr} (h : decodeCommand w = .instr i) :
    i.wf = true ∧ encode i = .command w := by
  by_cases hrsvd : Spec.rsvd w = 0
  · rw [decodeCommand_of_rsvd_zero hrsvd] at h
    rw [← commandWord_fields hrsvd]
    exact encode_of_decodeOp h
  · rw [decodeCommand_of_rsvd hrsvd] at h
    cases h

theorem encode_of_decodeWrite {index : PortIndex} {v : Word} {i : Instr} (h : decodeWrite index v = .instr i) :
    i.wf = true ∧ encode i = .bus (.write index v) := by
  have each : ∀ n : Fin 32, decodeWrite (BitVec.ofFin n) v = .instr i →
      i.wf = true ∧ encode i = .bus (.write (BitVec.ofFin n) v) := by
    intro n hn
    fin_cases n <;> cases hn <;> exact ⟨rfl, rfl⟩
  exact each index.toFin h

theorem encode_of_decodeRead {index : PortIndex} {i : Instr} (h : decodeRead index = .instr i) :
    i.wf = true ∧ encode i = .bus (.read index) := by
  have each : ∀ n : Fin 32, decodeRead (BitVec.ofFin n) = .instr i →
      i.wf = true ∧ encode i = .bus (.read (BitVec.ofFin n)) := by
    intro n hn
    fin_cases n <;> cases hn <;> exact ⟨rfl, rfl⟩
  exact each index.toFin h

/-- Settles O2: a code is a command word, a write or a read, and each has its lemma above. -/
theorem encodeOfDecodeIsTheCode : Obligations.EncodeOfDecodeIsTheCode := by
  intro c i h
  match c with
  | .command w => exact encode_of_decodeCommand h
  | .bus (.write index v) => exact encode_of_decodeWrite h
  | .bus (.read index) => exact encode_of_decodeRead h

/-! ## The legal command words (R84) -/

theorem decodeCommand_legal_iff (w : Word) :
    (∃ i, decodeCommand w = .instr i) ↔
      Spec.rsvd w = 0 ∧ Spec.opInTable (Spec.op w) = true ∧ Spec.argInRange (Spec.op w) (Spec.arg w) = true := by
  refine ⟨fun ⟨i, hi⟩ => ?_, fun ⟨hrsvd, hop, harg⟩ => ?_⟩
  · have hrsvd : Spec.rsvd w = 0 := by
      by_contra hne
      rw [decodeCommand_of_rsvd hne] at hi
      cases hi
    have hop : Spec.opInTable (Spec.op w) = true := by
      by_contra hout
      rw [decodeCommand_of_not_opInTable hrsvd (Bool.eq_false_iff.mpr hout)] at hi
      cases hi
    refine ⟨hrsvd, hop, ?_⟩
    by_contra hout
    rw [decodeCommand_of_not_argInRange hrsvd hop (Bool.eq_false_iff.mpr hout)] at hi
    cases hi
  · obtain ⟨i, -, hd⟩ := decodeCommand_of_argInRange hrsvd hop harg
    exact ⟨i, hd⟩

/-- The rows of R83: ROUND_F takes every ARG, CBC_ENC_FINAL and CBC_DEC_END take 0..7, and the others take 0. -/
theorem argInRange_iff {o a : Nat} (ha : a < 16) :
    Spec.argInRange o a = true ↔ a = 0 ∨ o = 5 ∨ ((o = 7 ∨ o = 9) ∧ a < 8) := by
  unfold Spec.argInRange
  split
  · next ho => simp [ho, ha]
  · next ho =>
    split
    · next hsmall => simp only [decide_eq_true_eq, hsmall, ho, true_and, false_or]; omega
    · next hsmall => simp [ho, hsmall]

/-- A word is ARG * 256 + OP when RSVD = 0, so the fields are legal exactly for the forty words. -/
theorem legal_fields_iff_word (w : Word) :
    (Spec.rsvd w = 0 ∧ Spec.opInTable (Spec.op w) = true ∧ Spec.argInRange (Spec.op w) (Spec.arg w) = true) ↔
      w.toNat ∈ [0x000, 0x001, 0x002, 0x003, 0x004, 0x006, 0x008, 0x00F] ∨
      (∃ a, a < 16 ∧ w.toNat = a * 256 + 0x05) ∨
      (∃ a, a < 8 ∧ (w.toNat = a * 256 + 0x07 ∨ w.toNat = a * 256 + 0x09)) := by
  have harg : Spec.arg w < 16 := Nat.mod_lt _ (by decide)
  rw [argInRange_iff harg, Spec.opInTable, decide_eq_true_eq]
  simp only [Spec.rsvd, Spec.op, Spec.arg, List.mem_cons, List.not_mem_nil, or_false]
  generalize w.toNat = n
  constructor
  · rintro ⟨hrsvd, hop, harg⟩
    by_cases h5 : n % 256 = 5
    · exact .inr (.inl ⟨n / 256, by omega, by omega⟩)
    · by_cases h79 : n % 256 = 7 ∨ n % 256 = 9
      · exact .inr (.inr ⟨n / 256, by omega, by omega⟩)
      · exact .inl (by omega)
  · rintro (hplain | ⟨a, ha, hn⟩ | ⟨a, ha, hn⟩) <;> omega

/-- Settles O3: the fields are the decoder's three checks, and the list is their arithmetic. -/
theorem legalCommandWordsAreTheForty : Obligations.LegalCommandWordsAreTheForty := fun w =>
  ⟨decodeCommand_legal_iff w, (decodeCommand_legal_iff w).trans (legal_fields_iff_word w)⟩

/-! ## The rows by themselves -/

/-- A command word written out as a number (R80). -/
theorem ofNat_eq_commandWord (op : BitVec 8) (arg : BitVec 4) :
    BitVec.ofNat 64 (arg.toNat * 256 + op.toNat) = commandWord op arg := by
  rw [← toNat_commandWord, BitVec.ofNat_toNat, BitVec.setWidth_eq]

theorem decode_plainWords : ∀ x ∈ Spec.plainWords, decode (.command x.1) = .instr x.2 := by decide

theorem decode_argWord (op : BitVec 8) (arg : BitVec 4) :
    decode (.command (BitVec.ofNat 64 (arg.toNat * 256 + op.toNat))) = decodeOp op arg := by
  rw [ofNat_eq_commandWord]
  exact decodeCommand_commandWord op arg

theorem decode_argWords {x : Nat × Nat × (BitVec 4 → Instr)} (hx : x ∈ Spec.argWords) {a : BitVec 4}
    (ha : a.toNat < x.2.1) : decode (.command (BitVec.ofNat 64 (a.toNat * 256 + x.1))) = .instr (x.2.2 a) := by
  fin_cases hx
  · exact decode_argWord 0x05#8 a
  · exact (decode_argWord 0x07#8 a).trans (if_pos (decide_eq_true ha))
  · exact (decode_argWord 0x09#8 a).trans (if_pos (decide_eq_true ha))

theorem decodeWrite_of_reserved {index : PortIndex} (h : Spec.reserved index) (v : Word) :
    decodeWrite index v = .reject .reservedOffset := by
  have each : ∀ n : Fin 32, Spec.reserved (BitVec.ofFin n) →
      decodeWrite (BitVec.ofFin n) v = .reject .reservedOffset := by
    intro n
    fin_cases n <;> simp [Spec.reserved, decodeWrite]
  exact each index.toFin h

/-- Settles O4: the rows of each map, the reserved offsets, and the four illegal words by evaluation. -/
theorem writtenOutCodesDecode : Obligations.WrittenOutCodesDecode := by
  refine ⟨decode_plainWords, fun x hx a ha => decode_argWords hx ha, fun v x hx => ?_, fun x hx => ?_,
    fun index h => ⟨decodeRead_of_reserved h, decodeWrite_of_reserved h⟩, by decide, by decide, by decide, by decide⟩
  · fin_cases hx <;> dsimp only <;> rfl
  · fin_cases hx <;> rfl

/-! ## Acceptance of a legal command (60_exceptions.md R242, R245) -/

/-- Settles O6: the word decodes to the command, so it is not the SOFT_RESET word, and no step before the eighth applies. -/
theorem legalCommandOnAnIdleCoreIsAccepted : Obligations.LegalCommandOnAnIdleCoreIsAccepted := by
  intro i w s hwf hcode hi herr hpend hkeys
  have hd : decodeCommand w = .instr i := by
    have h := decode_encode hwf
    rwa [hcode] at h
  have hw : w ≠ softResetWord := by
    rintro rfl
    exact hi (Decoded.instr.inj hd).symm
  have hvalid : ¬(isKeyed i = true ∧ s.ksValid = false) := fun ⟨hk, hv⟩ => by simp [hkeys hk] at hv
  rw [exec_wrCmd, submit_of_instr hw herr hpend hd, if_neg hvalid]

end Sys2Proof.Machine
end

section
/-! PROOFS. The statements about the cyclic rotation and the round function (40_bitvector.md R105; 42_feistel.md R141 to
R147). -/

namespace Sys2Proof.Machine

/-! ## The cyclic left rotation (R105) -/

/-- Position i of the rotation is bit n - i, which comes from k bits below it, round the end. -/
theorem seqBit_rotl {n : Nat} (s : BitVec n) (k : Nat) {i : Nat} (h1 : 1 ≤ i) (h2 : i ≤ n) :
    seqBit (rotl s k) i = seqBit s ((i - 1 + k) % n + 1) := by
  have hn : 0 < n := by omega
  have hr : k % n < n := Nat.mod_lt k hn
  have hmod : (i - 1 + k) % n = if i - 1 + k % n < n then i - 1 + k % n else i - 1 + k % n - n := by
    rw [← Nat.add_mod_mod]
    split
    · next hlt => exact Nat.mod_eq_of_lt hlt
    · next hge => rw [Nat.mod_eq_sub_mod (by omega), Nat.mod_eq_of_lt (by omega)]
  have hin : (i - 1 + k) % n + 1 ≤ n := Nat.mod_lt _ hn
  rw [seqBit, if_pos ⟨h1, h2⟩, seqBit, if_pos ⟨Nat.succ_pos _, hin⟩, rotl, BitVec.getLsbD_rotateLeft, Bool.cond_decide, hmod]
  by_cases hwrap : i - 1 + k % n < n
  · have hbit : n - i - k % n = n - (i - 1 + k % n + 1) := by omega
    rw [if_pos hwrap, if_neg (by omega), decide_eq_true (by omega), Bool.true_and, hbit]
  · have hbit : n - k % n + (n - i) = n - (i - 1 + k % n - n + 1) := by omega
    rw [if_neg hwrap, if_pos (by omega), hbit]

/-- Settles O18: by positions; the empty sequence is the only one of its length; on 28 bits it is the library's form of a
rotation by less than the length. -/
theorem rotlMovesPositionsLeft : Obligations.RotlMovesPositionsLeft := by
  refine ⟨fun n s k i h1 h2 => seqBit_rotl s k h1 h2, fun s k => Subsingleton.elim _ _, fun c k _ h => ?_⟩
  rw [rotl, BitVec.rotateLeft_def, Nat.mod_eq_of_lt (by omega)]

/-! ## The substitution as a table (R144) -/

/-- Settles O22, by evaluation of the nibble's arithmetic at the 512 entries. -/
theorem substitutionMatchesTheTable : Obligations.SubstitutionMatchesTheTable := by
  intro i hi v hv
  rw [toNat_nibble]
  have each : ∀ i < 8, ∀ v < 64,
      ((v * (i + 1)) ^^^ (v / 4)) % 16 = Spec.nibbleRows.getD i 0 / 16 ^ (63 - v) % 16 := by decide +kernel
  exact each i hi v hv

/-! ## The round function of complements (R147) -/

theorem seqBit_not {n : Nat} (s : BitVec n) {i : Nat} (h1 : 1 ≤ i) (h2 : i ≤ n) : seqBit (~~~s) i = !seqBit s i := by
  have hlt : n - i < n := by omega
  simp [seqBit, h1, h2, hlt]

/-- A table in range selects positions of the complement, which are the complements of the positions. -/
theorem perm_not {n m : Nat} {t : Vector Nat m} (hrange : entriesIn n t = true) (s : BitVec n) :
    perm (~~~s) t = ~~~perm s t := by
  refine seq_ext fun i h1 h2 => ?_
  have hentry : t[i - 1]? = some (t[i - 1]'(by omega)) := Vector.getElem?_eq_getElem _
  obtain ⟨hx1, hxn⟩ := entriesIn_iff.mp hrange _ (Vector.mem_toList_iff.mpr (Vector.mem_of_getElem? hentry))
  rw [seqBit_not _ h1 h2, seqBit_perm _ t h1 h2 hentry, seqBit_perm _ t h1 h2 hentry, seqBit_not _ hx1 hxn]

/-- Settles O23: E complements with its input, and the two complements cancel in the XOR with the key. -/
theorem roundFunctionOfComplements : Obligations.RoundFunctionOfComplements := by
  intro r k
  obtain ⟨-, -, he, -, -, -⟩ := tablesInRange_iff.mp tables_inRange
  have hmix : ~~~perm r tables.e ^^^ ~~~k = perm r tables.e ^^^ k := by
    rw [← BitVec.not_xor_left, ← BitVec.not_xor_right, BitVec.not_not]
  rw [roundFunction, perm_not he, hmix, roundFunction]

/-! ## F by positions, and ROUND_F (R145, R147) -/

/-- A permutation takes the positions its table lists (40_bitvector.md R104). -/
theorem takes_perm {n m : Nat} (s : BitVec n) (t : Vector Nat m) : Spec.takes (perm s t) s t.toList :=
  fun _ h1 h2 => seqBit_seqOf m _ h1 h2

theorem halfOperand_eq (s : State) : halfOperand s = s.din.setWidth 32 := by
  rw [halfOperand, BitVec.setWidth_eq_extractLsb' (by decide)]

theorem getD_toList_keyFile (rk : KeyFile) (r : Fin 16) : rk.toList.getD r.val 0#48 = rk.get r := by
  rw [List.getD_eq_getElem?_getD, Vector.getElem?_toList, Vector.getElem?_eq_getElem r.isLt, Option.getD_some]
  rfl

theorem roundKeyOperand_eq (arg : BitVec 4) (s : State) : roundKeyOperand arg s = s.rk.get arg.toFin :=
  getD_toList_keyFile s.rk arg.toFin

/-- Settles O24: E and P by the positions of their tables, and the operands of ROUND_F by their definitions. -/
theorem roundFWritesTheRoundFunction : Obligations.RoundFWritesTheRoundFunction := by
  refine ⟨fun r k => ⟨perm r tables.e, takes_perm r tables.e, takes_perm _ tables.p⟩, fun arg s => ?_⟩
  rw [← halfOperand_eq, ← roundKeyOperand_eq]
  rfl

end Sys2Proof.Machine
end

section
/-! PROOFS. The statements about the key schedule: it does not depend on the key (41_key_schedule.md R124 to R128). -/

namespace Sys2Proof.Machine

/-! ## The halves (R124, R128) -/

/-- The overwrite discards the permuted key (R126): its result is the alternating sequence. -/
theorem overwrite_eq (p : BitVec 56) : overwrite p = 0x5555555AAAAAAA#56 :=
  (show overwrite p = overwrite 0#56 from rfl).trans (by decide +kernel)

theorem initialHalves_eq (T : Tables) (key : Word) : initialHalves T key = (0x5555555#28, 0xAAAAAAA#28) := by
  simp only [initialHalves, overwrite_eq]
  decide

/-- The key schedule begins with the same halves for every key, so it is one list of round keys and ends with one pair of
halves. -/
theorem keyScheduleRun_eq (key : Word) :
    keyScheduleRun tables key = (Spec.roundKeys, 0x5555555#28, 0xAAAAAAA#28) := by
  rw [keyScheduleRun, initialHalves_eq]
  decide +kernel

theorem keySchedule_eq (key : Word) : keySchedule tables key = Spec.roundKeys := by
  rw [keySchedule, keyScheduleRun_eq]

theorem keyFile_eq (key : Word) : keyFile tables key = Spec.roundKeyFile := by
  rw [keyFile, keySchedule_eq]
  decide

theorem halvesAfter_eq (key : Word) {r : Nat} (h1 : 1 ≤ r) (h2 : r ≤ 16) :
    Spec.halvesAfter key r =
      if r = 1 ∨ (9 ≤ r ∧ r ≤ 15) then (0xAAAAAAA#28, 0x5555555#28) else (0x5555555#28, 0xAAAAAAA#28) := by
  have each : ∀ r < 17, 1 ≤ r → (scheduleRounds tables (shifts.take r) 0x5555555#28 0xAAAAAAA#28).2 =
      if r = 1 ∨ (9 ≤ r ∧ r ≤ 15) then (0xAAAAAAA#28, 0x5555555#28) else (0x5555555#28, 0xAAAAAAA#28) := by
    decide +kernel
  rw [Spec.halvesAfter, initialHalves_eq]
  exact each r (by omega) h1

/-- Settles O13: the halves of the rounds from the one initial pair. -/
theorem scheduleHalvesAfterEachRound : Obligations.ScheduleHalvesAfterEachRound :=
  fun key _ h1 h2 => halvesAfter_eq key h1 h2

/-! ## The round keys (R125) -/

/-- The running shift sum is even after rounds 2 to 8 and 16 (R122). -/
theorem even_shift_sum_iff {r : Nat} (h1 : 1 ≤ r) (h2 : r ≤ 16) :
    (shifts.take r).sum % 2 = 0 ↔ (2 ≤ r ∧ r ≤ 8) ∨ r = 16 := by
  have each : ∀ r < 17, 1 ≤ r → ((shifts.take r).sum % 2 = 0 ↔ (2 ≤ r ∧ r ≤ 8) ∨ r = 16) := by decide
  exact each r (by omega) h1

theorem joinKeyHalves_alternating : joinKeyHalves 0x5555555#28 0xAAAAAAA#28 = 0x5555555AAAAAAA#56 := by decide

theorem joinKeyHalves_exchanged : joinKeyHalves 0xAAAAAAA#28 0x5555555#28 = ~~~0x5555555AAAAAAA#56 := by decide

/-- The rounds after which the shift sum is odd are those after which the halves are exchanged. -/
theorem joinKeyHalves_halvesAfter (key : Word) {r : Nat} (h1 : 1 ≤ r) (h2 : r ≤ 16) :
    joinKeyHalves (Spec.halvesAfter key r).1 (Spec.halvesAfter key r).2 =
      if (shifts.take r).sum % 2 = 0 then 0x5555555AAAAAAA#56 else ~~~0x5555555AAAAAAA#56 := by
  have hiff := even_shift_sum_iff h1 h2
  by_cases hsum : (shifts.take r).sum % 2 = 0
  · have hr := hiff.mp hsum
    rw [if_pos hsum, halvesAfter_eq key h1 h2, if_neg (by omega), joinKeyHalves_alternating]
  · have hr := mt hiff.mpr hsum
    rw [if_neg hsum, halvesAfter_eq key h1 h2, if_pos (by omega), joinKeyHalves_exchanged]

/-- Settles O12: the list of round keys, KA and KB through PC2, and the halves by the parity of the shift sum. -/
theorem roundKeysDoNotDependOnTheKey : Obligations.RoundKeysDoNotDependOnTheKey :=
  ⟨keySchedule_eq, by decide +kernel, by decide +kernel, by decide,
    fun key _ h1 h2 => ⟨joinKeyHalves_halvesAfter key h1 h2, even_shift_sum_iff h1 h2⟩⟩

/-- Settles O14: the initial halves are the same under every PC1, and no later step reads it. -/
theorem pc1ChangesNoRoundKey : Obligations.Pc1ChangesNoRoundKey := by
  intro T pc1 key
  rw [keySchedule, keyScheduleRun, initialHalves_eq, keySchedule, keyScheduleRun, initialHalves_eq]
  rfl

/-! ## KSCHED (R127) -/

/-- KSCHED by the closed form of the schedule. -/
theorem exec_ksched (s : State) : exec .ksched s = .next
    { s with rk := Spec.roundKeyFile, ksValid := true, c := 0x5555555#28, d := 0xAAAAAAA#28, pend := none } := by
  rw [exec, execKsched, keyScheduleRun_eq, keyFile_eq]
  rfl

/-- Settles O15: the closed form of the schedule, by `exec_ksched`. -/
theorem kschedWritesTheClosedForm : Obligations.KschedWritesTheClosedForm := exec_ksched

end Sys2Proof.Machine
end

section
/-! PROOFS. The statements about the block transform: IP and FP, the transform by its halves, and the two block commands
(43_block_transform.md R160 to R167). -/

namespace Sys2Proof.Machine

/-! ## IP and FP (R161) -/

/-- The two tables send each position there and back. -/
theorem tableFP_tableIP {j : Nat} (h1 : 1 ≤ j) (h2 : j ≤ 64) :
    tableIP[j - 1]?.bind (fun x => tableFP[x - 1]?) = some j := by
  have each : ∀ j < 64, tableIP[j]?.bind (fun x => tableFP[x - 1]?) = some (j + 1) := by decide
  rw [each (j - 1) (by omega), Nat.sub_add_cancel h1]

theorem tableIP_tableFP {j : Nat} (h1 : 1 ≤ j) (h2 : j ≤ 64) :
    tableFP[j - 1]?.bind (fun y => tableIP[y - 1]?) = some j := by
  have each : ∀ j < 64, tableFP[j]?.bind (fun y => tableIP[y - 1]?) = some (j + 1) := by decide
  rw [each (j - 1) (by omega), Nat.sub_add_cancel h1]

/-- Settles O25: the tables position by position, and the permutations by `perm_fp_perm_ip`. -/
theorem finalPermutationInvertsTheInitial : Obligations.FinalPermutationInvertsTheInitial := by
  refine ⟨fun j h1 h2 => ?_, perm_fp_perm_ip⟩
  obtain ⟨x, hx, hfp⟩ := Option.bind_eq_some_iff.mp (tableFP_tableIP h1 h2)
  obtain ⟨y, hy, hip⟩ := Option.bind_eq_some_iff.mp (tableIP_tableFP h1 h2)
  exact ⟨x, y, hx, hfp, hy, hip⟩

/-! ## The transform by its halves (R162, R163) -/

/-- L_j and R_j: the halves after the first j rounds (R162). -/
def halvesAfterRounds (keys : List RoundKey) (b : Word) (j : Nat) : Half × Half :=
  feistelRounds tables (keys.take j) (permutedHalves tables b)

/-- One more round takes the next key. -/
theorem halvesAfterRounds_succ {keys : List RoundKey} (b : Word) {j : Nat} (hj : j < keys.length) :
    halvesAfterRounds keys b (j + 1) = feistelRound tables (halvesAfterRounds keys b j) (keys.getD j 0#48) := by
  have hkey : keys[j] = keys.getD j 0#48 := List.getElem_eq_getD _
  rw [halvesAfterRounds, List.take_succ_eq_append_getElem hj, feistelRounds_concat, hkey, halvesAfterRounds]

/-- The halves before the first round are those of IP(B). -/
theorem joinHalves_halvesAfterRounds_zero (keys : List RoundKey) (b : Word) :
    joinHalves (halvesAfterRounds keys b 0).1 (halvesAfterRounds keys b 0).2 = perm b tables.ip :=
  joinHalves_halves _

/-- The halves after all the rounds, exchanged, are the pre-output (R163). -/
theorem blockTransform_eq_perm_fp (b : Word) (keys : List RoundKey) :
    blockTransform tables b keys =
      perm (joinHalves (halvesAfterRounds keys b keys.length).2 (halvesAfterRounds keys b keys.length).1) tables.fp := by
  rw [blockTransform_eq, halvesAfterRounds, List.take_length]

theorem blockTransform_by_halves (b : Word) {keys : List RoundKey} (hlen : keys.length = 16) :
    ∃ L R : Nat → Half, Spec.takes (L 0 ++ R 0) b Spec.tableIP ∧
      (∀ j, j < 16 → L (j + 1) = R j ∧ R (j + 1) = L j ^^^ roundFunction tables (R j) (keys.getD j 0#48)) ∧
      Spec.takes (blockTransform tables b keys) (R 16 ++ L 16) Spec.tableFP := by
  refine ⟨fun j => (halvesAfterRounds keys b j).1, fun j => (halvesAfterRounds keys b j).2, ?_, fun j hj => ?_, ?_⟩
  · have hip : Spec.takes (perm b tables.ip) b Spec.tableIP := takes_perm b tables.ip
    rwa [← joinHalves_halvesAfterRounds_zero keys b] at hip
  · simp only [halvesAfterRounds_succ b (hlen.symm ▸ hj), feistelRound, true_and]
  · rw [blockTransform_eq_perm_fp, hlen]
    exact takes_perm _ tables.fp

/-! ## The two block commands (R166, R167) -/

theorem exec_btFwd (s : State) : exec .btFwd s =
    .next (complete (leaveTransform { s with dout := blockTransform tables s.din (keysFwd s.rk) })) := rfl

theorem exec_btRev (s : State) : exec .btRev s =
    .next (complete (leaveTransform { s with dout := blockTransform tables s.din (keysRev s.rk) })) := rfl

/-- Settles O27: the transform by its halves, and each command by its definition. -/
theorem blockCommandsWriteTheTransform : Obligations.BlockCommandsWriteTheTransform :=
  ⟨fun b _ hlen => blockTransform_by_halves b hlen,
    fun s => ⟨⟨_, _, _, _, exec_btFwd s⟩, ⟨_, _, _, _, exec_btRev s⟩⟩⟩

/-- Settles O28: the second command reads the same key file in the other order, so it undoes the first (R165). -/
theorem blockCommandsUndoEachOther : Obligations.BlockCommandsUndoEachOther := by
  obtain ⟨-, involution⟩ := blockTransformIsAnInvolution
  intro s t u i j hij hi hj
  simp only [List.mem_cons, Prod.mk.injEq, List.not_mem_nil, or_false] at hij
  obtain ⟨rfl, rfl⟩ | ⟨rfl, rfl⟩ := hij
  · rw [exec_btFwd] at hi
    cases hi
    rw [exec_btRev] at hj
    cases hj
    exact (involution s.din s.rk).1
  · rw [exec_btRev] at hi
    cases hi
    rw [exec_btFwd] at hj
    cases hj
    exact (involution s.din s.rk).2

end Sys2Proof.Machine
end

section
/-! PROOFS. The statements about the codec's commands and about NOP (44_cbc.md R180 to R187; 45_control.md R220). -/

namespace Sys2Proof.Machine

/-! ## The commands by their definitions -/

/-- Settles O29, by the definition of the command. -/
theorem cbcStartLoadsTheChain : Obligations.CbcStartLoadsTheChain := fun _ => rfl

/-- Encrypting a block writes DOUT and CHAIN, completes, and leaves the halves and the round counter open. -/
theorem encryptAndChain_frame (block : Word) (s : State) : ∃ l r n k, encryptAndChain block s =
    { s with dout := blockTransform tables (block ^^^ s.chain) s.rk.toList,
             chain := blockTransform tables (block ^^^ s.chain) s.rk.toList,
             pend := none, l := l, r := r, round := n, draws := k } := ⟨_, _, _, _, rfl⟩

/-- Settles O30: both commands encrypt a block, DIN or its padded copy. -/
theorem cbcEncryptCommandsChain : Obligations.CbcEncryptCommandsChain := by
  intro s
  refine ⟨?_, fun a => ?_⟩
  · obtain ⟨l, r, n, k, h⟩ := encryptAndChain_frame s.din s
    exact ⟨l, r, n, k, congrArg Host.Outcome.next h⟩
  · obtain ⟨l, r, n, k, h⟩ := encryptAndChain_frame (padBlock s.din a.toNat) s
    exact ⟨l, r, n, k, congrArg Host.Outcome.next h⟩

/-- Settles O31, by the definition of the command. -/
theorem cbcDecChainsTheCiphertext : Obligations.CbcDecChainsTheCiphertext := fun _ => ⟨_, _, _, _, rfl⟩

/-- Settles O40, by the definition of the command. -/
theorem nopOnlyCompletes : Obligations.NopOnlyCompletes := fun _ => rfl

/-! ## The padding that the codec generates (R180, R184) -/

/-- Settles O34: byte 7 is 8 - n, and so is every byte from n on. -/
theorem generatedPaddingIsValid : Obligations.GeneratedPaddingIsValid := by
  intro w n hn
  have hlast : blockByte (padBlock w n) 7 = BitVec.ofNat 8 (8 - n) := by
    rw [blockByte_padBlock w n (by decide), if_neg (by omega)]
  have hvalue : (BitVec.ofNat 8 (8 - n)).toNat = 8 - n := by
    rw [BitVec.toNat_ofNat, Nat.mod_eq_of_lt (by omega)]
  refine Prod.ext ((padCheck_fst_iff _).mpr ?_) hlast
  rw [hlast, hvalue]
  refine ⟨by omega, by omega, fun k hk hk7 => ?_⟩
  rw [blockByte_padBlock w n (by omega), if_neg (by omega)]

/-- The padded copy of a block reads only its first n bytes. -/
theorem padBlock_congr {v w : Word} {n : Nat} (h : ∀ k, k < n → blockByte v k = blockByte w k) :
    padBlock v n = padBlock w n := by
  refine block_ext fun k hk => ?_
  rw [blockByte_padBlock v n hk, blockByte_padBlock w n hk]
  split
  · next hlt => exact h k hlt
  · rfl

/-- Settles O35: DIN is read only through its padded copy. -/
theorem unusedDinBytesDoNotMatter : Obligations.UnusedDinBytesDoNotMatter := by
  intro a s t v _ hbytes h
  cases h
  have hpad : padBlock v a.toNat = padBlock s.din a.toNat := padBlock_congr hbytes
  show Host.Outcome.next (encryptAndChain (padBlock v a.toNat) { s with din := v }) = _
  rw [hpad]
  rfl

/-! ## CBC_DEC_END (R187) -/

/-- CBC_DEC_END in one form: PADLEN and PAD_WARN report the check of DOUT only when a block was recovered. -/
theorem exec_cbcDecEnd (tail : BitVec 4) (s : State) : exec (.cbcDecEnd tail) s = .next
    { s with truncWarn := s.truncWarn || decide (argValue tail ≠ 0)
             padlen := if s.decSeen then padlenOf (padCheck s.dout) else 0#4
             padWarn := if s.decSeen then !(padCheck s.dout).1 else s.padWarn
             pend := none } := by
  rw [exec, execCbcDecEnd]
  cases s.decSeen <;> rfl

theorem argValue_ne_zero_iff (arg : BitVec 4) : argValue arg ≠ 0 ↔ arg ≠ 0#4 := by
  rw [argValue, Ne, Ne, ← BitVec.toNat_inj, BitVec.toNat_zero]

/-- The check of R180 is valid exactly for a block padded by the value of its last byte. -/
theorem paddedBy_iff (w : Word) (p : Nat) :
    Spec.paddedBy w p ↔ (padCheck w).1 = true ∧ (blockByte w 7).toNat = p := by
  rw [padCheck_fst_iff]
  constructor
  · rintro ⟨h1, h8, hbytes⟩
    have hlast : (blockByte w 7).toNat = p := hbytes 7 (by omega) (by omega)
    refine ⟨⟨by omega, by omega, fun k hk hk7 => BitVec.eq_of_toNat_eq ?_⟩, hlast⟩
    rw [hlast] at hk ⊢
    exact hbytes k hk hk7
  · rintro ⟨⟨h1, h8, hbytes⟩, rfl⟩
    exact ⟨h1, h8, fun k hk hk7 => congrArg BitVec.toNat (hbytes k hk hk7)⟩

theorem padlenOf_of_paddedBy {w : Word} {p : Nat} (h : Spec.paddedBy w p) :
    padlenOf (padCheck w) = BitVec.ofNat 4 p := by
  obtain ⟨hvalid, rfl⟩ := (paddedBy_iff w p).mp h
  rw [padlenOf, if_pos hvalid, padCheck_snd, BitVec.ofNat_toNat]

theorem padCheck_fst_of_not_paddedBy {w : Word} (h : ∀ p, ¬Spec.paddedBy w p) : (padCheck w).1 = false :=
  Bool.eq_false_iff.mpr fun hvalid => h _ ((paddedBy_iff w _).mpr ⟨hvalid, rfl⟩)

/-- Settles O32: the three cases are no block recovered, a valid check and an invalid one. -/
theorem cbcDecEndReportsThePadding : Obligations.CbcDecEndReportsThePadding := by
  intro tail s
  simp only [exec_cbcDecEnd, argValue_ne_zero_iff]
  refine ⟨fun hseen => ?_, fun p hseen hpad => ?_, fun hseen hpad => ?_⟩
  · simp [hseen]
  · obtain ⟨hvalid, -⟩ := (paddedBy_iff s.dout p).mp hpad
    simp [hseen, padlenOf_of_paddedBy hpad, hvalid]
  · simp [hseen, padlenOf, padCheck_fst_of_not_paddedBy hpad]

end Sys2Proof.Machine
end

section
/-! PROOFS. The statements about STATUS and the recording of errors (10_state.md R29; 60_exceptions.md R240, R241). -/

namespace Sys2Proof.Machine

/-! ## The fields of STATUS (R29) -/

theorem getLsbD_fieldAt_of_lt {n : Nat} {lo : Nat} (v : BitVec n) {j : Nat} (h : j < lo) :
    (fieldAt lo v).getLsbD j = false := by
  simp [fieldAt, h]

theorem getLsbD_fieldAt_of_ge {n : Nat} {lo : Nat} (v : BitVec n) {j : Nat} (h : lo + n ≤ j) :
    (fieldAt lo v).getLsbD j = false := by
  have hout : n ≤ j - lo := by omega
  simp [fieldAt, BitVec.getLsbD_of_ge v _ hout]

theorem getLsbD_fieldAt_add {n : Nat} {lo : Nat} (v : BitVec n) {j : Nat} (h : lo + j < 64) :
    (fieldAt lo v).getLsbD (lo + j) = v.getLsbD j := by
  rw [getLsbD_fieldAt lo v h, decide_eq_true (Nat.le_add_right lo j), Bool.true_and, Nat.add_sub_cancel_left]

theorem getLsbD_fieldAt_ofBool (b : Bool) {lo : Nat} (h : lo < 64) : (fieldAt lo (BitVec.ofBool b)).getLsbD lo = b := by
  simp [getLsbD_fieldAt lo _ h]

/-- Bits 4 to 7 of STATUS lie in ERRCODE alone. -/
theorem extractLsb'_statusWord_errCode (s : State) : (statusWord s).extractLsb' 4 4 = errCodeField s.error := by
  refine BitVec.eq_of_getLsbD_eq fun j hj => ?_
  rw [BitVec.getLsbD_extractLsb', decide_eq_true hj, Bool.true_and]
  simp (disch := omega) only [statusWord, BitVec.getLsbD_or, getLsbD_fieldAt_of_lt, getLsbD_fieldAt_of_ge,
    getLsbD_fieldAt_add, Bool.or_false, Bool.false_or]

theorem extractLsb'_statusWord_padlen (s : State) : (statusWord s).extractLsb' 16 4 = s.padlen := by
  refine BitVec.eq_of_getLsbD_eq fun j hj => ?_
  rw [BitVec.getLsbD_extractLsb', decide_eq_true hj, Bool.true_and]
  simp (disch := omega) only [statusWord, BitVec.getLsbD_or, getLsbD_fieldAt_of_ge, getLsbD_fieldAt_add, Bool.or_false,
    Bool.false_or]

/-- The reserved bits lie between PAD_WARN and PADLEN and above PADLEN. -/
theorem getLsbD_statusWord_reserved (s : State) {j : Nat} (h : (10 ≤ j ∧ j < 16) ∨ 20 ≤ j) :
    (statusWord s).getLsbD j = false := by
  obtain ⟨hlow, hhigh⟩ | hhigh := h
  · simp (disch := omega) only [statusWord, BitVec.getLsbD_or, getLsbD_fieldAt_of_lt, getLsbD_fieldAt_of_ge,
      Bool.or_false]
  · simp (disch := omega) only [statusWord, BitVec.getLsbD_or, getLsbD_fieldAt_of_ge, Bool.or_false]

theorem extractLsb'_eq_zero {w : Word} {lo n : Nat} (h : ∀ j, j < n → w.getLsbD (lo + j) = false) :
    w.extractLsb' lo n = 0#n := by
  refine BitVec.eq_of_getLsbD_eq fun j hj => ?_
  rw [BitVec.getLsbD_extractLsb', h j hj, Bool.and_false, BitVec.getLsbD_zero]

theorem statusWord_getLsbD_err (s : State) : (statusWord s).getLsbD 2 = s.err := by
  simp (disch := omega) only [statusWord, BitVec.getLsbD_or, getLsbD_fieldAt_ofBool, getLsbD_fieldAt_of_lt,
    getLsbD_fieldAt_of_ge, Bool.or_false, Bool.false_or]

/-- The four flags of the session and the pass (R31, R33 to R35). -/
theorem statusWord_getLsbD_flags (s : State) :
    (statusWord s).getLsbD 1 = s.ksValid ∧ (statusWord s).getLsbD 3 = s.decSeen ∧
      (statusWord s).getLsbD 8 = s.truncWarn ∧ (statusWord s).getLsbD 9 = s.padWarn := by
  simp (disch := omega) only [statusWord, BitVec.getLsbD_or, getLsbD_fieldAt_ofBool, getLsbD_fieldAt_of_lt,
    getLsbD_fieldAt_of_ge, Bool.or_false, Bool.false_or, and_self]

/-- Settles O50: the one-bit fields at their bits, ERRCODE and PADLEN as fields, and the two reserved ranges. -/
theorem statusFieldsAreWhereTheTablePutsThem : Obligations.StatusFieldsAreWhereTheTablePutsThem := by
  intro s
  obtain ⟨hks, hseen, htrunc, hpad⟩ := statusWord_getLsbD_flags s
  exact ⟨statusWord_getLsbD_zero s, hks, statusWord_getLsbD_err s, hseen, extractLsb'_statusWord_errCode s, htrunc, hpad,
    extractLsb'_eq_zero fun j hj => getLsbD_statusWord_reserved s (by omega), extractLsb'_statusWord_padlen s,
    extractLsb'_eq_zero fun j _ => getLsbD_statusWord_reserved s (by omega)⟩

/-! ## Recording an error (60_exceptions.md R241) -/

/-- The bits of ERR and ERRCODE for a recorded error. -/
def errorBits (e : Option ErrCode) : Word := fieldAt 2 (BitVec.ofBool e.isSome) ||| fieldAt 4 (errCodeField e)

/-- The OR of eight fields, with the third and the fifth moved to the end. -/
theorem or_third_fifth_last (a b c d e f g h : Word) :
    a ||| b ||| c ||| d ||| e ||| f ||| g ||| h = (a ||| b ||| d ||| f ||| g ||| h) ||| (c ||| e) := by ac_rfl

/-- STATUS is STATUS without an error, with the bits of ERR and ERRCODE set. -/
theorem statusWord_eq_or_errorBits (s : State) :
    statusWord s = statusWord { s with error := none } ||| errorBits s.error := by
  have hclear : errorBits none = 0#64 := by decide
  have hsplit (t : State) : statusWord t = (fieldAt 0 (BitVec.ofBool t.busy) ||| fieldAt 1 (BitVec.ofBool t.ksValid) |||
      fieldAt 3 (BitVec.ofBool t.decSeen) ||| fieldAt 8 (BitVec.ofBool t.truncWarn) |||
      fieldAt 9 (BitVec.ofBool t.padWarn) ||| fieldAt 16 t.padlen) ||| errorBits t.error :=
    or_third_fifth_last ..
  rw [hsplit s, hsplit { s with error := none }, hclear, BitVec.or_zero]
  rfl

theorem errorBits_of_number {code : ErrCode} {n : Nat}
    (h : (code, n) ∈ [(ErrCode.illegalOp, 1), (.badArg, 2), (.rsvdBits, 3), (.noKeys, 4), (.busyWrite, 5)]) :
    errorBits (some code) = BitVec.ofNat 64 (4 + 16 * n) := by
  fin_cases h <;> decide

/-- Settles O7: the first error is recorded in its own bits of STATUS, and a later one is not. -/
theorem firstErrorSetsErrAndErrcode : Obligations.FirstErrorSetsErrAndErrcode := by
  intro code n s hn
  refine ⟨fun herr => ⟨raiseError_of_none code herr, ?_⟩, fun herr => ?_⟩
  · have hs : { s with error := none } = s := by rw [← herr]
    rw [raiseError_of_none code herr, statusWord_eq_or_errorBits, errorBits_of_number hn]
    exact congrArg (fun t => statusWord t ||| BitVec.ofNat 64 (4 + 16 * n)) hs
  · obtain ⟨e, he⟩ := Option.ne_none_iff_exists'.mp herr
    exact raiseError_of_some code he

end Sys2Proof.Machine
end

section
/-! PROOFS. The statements about the host's reads and writes of single registers, and the reset action (20_memory.md R51,
R61; 45_control.md R223, R225, R227; 70_reset_and_hazards.md R270). -/

namespace Sys2Proof.Machine

/-! ## Reads (20_memory.md R61, 45_control.md R227) -/

/-- Settles O45: the four reads are exact in every state, by their definitions. -/
theorem exactReads : Obligations.ExactReads := fun _ => ⟨rfl, rfl, rfl, rfl⟩

/-- The read of RK(r + 1). -/
def rdRk : Fin 16 → Instr :=
  ![.rdRk1, .rdRk2, .rdRk3, .rdRk4, .rdRk5, .rdRk6, .rdRk7, .rdRk8, .rdRk9, .rdRk10, .rdRk11, .rdRk12, .rdRk13, .rdRk14,
    .rdRk15, .rdRk16]

theorem exec_rdRk (r : Fin 16) (s : State) : exec (rdRk r) s =
    .next (readOpen (BitVec.ofNat 5 (8 + r.val)) ((s.rk.get r).setWidth 64) id s) := by
  rw [← getD_toList_keyFile]
  fin_cases r <;> rfl

/-- The reads that are open in all their bits while a command is in flight: DOUT, CHAIN and the round keys, each with its
index and what the register holds. -/
def openReads (s : State) : List (Instr × PortIndex × Word) :=
  (.rdDout, 5#5, s.dout) :: (.rdChain, 6#5, s.chain) ::
    (List.finRange 16).map fun r => (rdRk r, BitVec.ofNat 5 (8 + r.val), (s.rk.get r).setWidth 64)

theorem exec_openRead {s : State} {x : Instr × PortIndex × Word} (hx : x ∈ openReads s) :
    exec x.1 s = .next (readOpen x.2.1 x.2.2 id s) := by
  rw [openReads, List.mem_cons, List.mem_cons, List.mem_map] at hx
  obtain rfl | rfl | ⟨r, -, rfl⟩ := hx
  · rfl
  · rfl
  · exact exec_rdRk r s

/-- Settles O47: STATUS and the open reads return the exact value while no command is in flight. -/
theorem idleReadsReturnTheRegisters : Obligations.IdleReadsReturnTheRegisters := by
  intro s hpend x hx
  have hidle := (busy_eq_false_iff s).mpr hpend
  obtain rfl | hopen := List.mem_cons.mp hx
  · exact congrArg Host.Outcome.next (readOpen_of_idle 1#5 (statusWord s) _ hidle)
  · have hmem : x ∈ openReads s := hopen
    rw [exec_openRead hmem, readOpen_of_idle _ _ _ hidle]
    rfl

/-- The bits of the mask are not drawn. -/
theorem getLsbD_statusWhileBusy (s : State) (drawn : Word) {j : Nat} (h : statusExactBits.getLsbD j = true) :
    (statusWhileBusy s drawn).getLsbD j = (statusWord s).getLsbD j := by
  simp [statusWhileBusy, h]

theorem extractLsb'_statusWhileBusy_errCode (s : State) (drawn : Word) :
    (statusWhileBusy s drawn).extractLsb' 4 4 = errCodeField s.error := by
  have hexact : ∀ j < 4, statusExactBits.getLsbD (4 + j) = true := by decide
  rw [← extractLsb'_statusWord_errCode]
  refine BitVec.eq_of_getLsbD_eq fun j hj => ?_
  rw [BitVec.getLsbD_extractLsb', BitVec.getLsbD_extractLsb', getLsbD_statusWhileBusy s drawn (hexact j hj)]

/-- Settles O48: a read of STATUS draws only the bits outside the mask; the other reads draw the whole value. -/
theorem busyReadsAreOpen : Obligations.BusyReadsAreOpen := by
  intro s hpend
  have hbusy : s.busy = true := Option.isSome_iff_ne_none.mpr hpend
  refine ⟨⟨statusWhileBusy s (Config.freeWord s.draws), s.draws + 1, ?_, ?_, ?_, ?_⟩, fun x hx => ?_⟩
  · exact congrArg Host.Outcome.next (readOpen_of_busy 1#5 (statusWord s) _ hbusy)
  · rw [getLsbD_statusWhileBusy _ _ (by decide), statusWord_getLsbD_zero, hbusy]
  · rw [getLsbD_statusWhileBusy _ _ (by decide), statusWord_getLsbD_err, State.err]
  · exact extractLsb'_statusWhileBusy_errCode s _
  · have hmem : x ∈ (openReads s).map fun y => (y.1, y.2.1) := hx
    obtain ⟨y, hy, rfl⟩ := List.mem_map.mp hmem
    obtain ⟨v, k, hread⟩ := readOpen_frame y.2.1 y.2.2 id s
    exact ⟨v, k, (exec_openRead hy).trans (congrArg Host.Outcome.next hread)⟩

/-- Settles O49, from the frame of a read access. -/
theorem readsChangeNoCoreState : Obligations.ReadsChangeNoCoreState := by
  intro index s
  obtain ⟨v, n, h⟩ := read_turn_frame index s
  exact ⟨_, v, h, rfl, rfl, rfl⟩

/-! ## Writes (45_control.md R223 to R226, 60_exceptions.md R246) -/

/-- Settles O41: an idle core without an error stores the value, which ends the session. -/
theorem keyWriteEndsTheSession : Obligations.KeyWriteEndsTheSession := fun v _ herr hpend =>
  congrArg Host.Outcome.next (writeData_of_idle (fun t => { t with key := v, ksValid := false }) herr hpend)

theorem writeData_of_error (store : State → State) {s : State} (herr : s.error ≠ none) : writeData store s = s :=
  if_pos (Option.isSome_iff_ne_none.mpr herr)

theorem writeData_of_busy (store : State → State) {s : State} (herr : s.error = none) (hpend : s.pend ≠ none) :
    writeData store s = { s with error := some .busyWrite } := by
  have hbusy : s.busy = true := Option.isSome_iff_ne_none.mpr hpend
  simp [writeData, (err_eq_false_iff s).mpr herr, hbusy, herr]

/-- Settles O8: the four writes that can have an effect are ignored in the fatal state, that of CMD unless its word is
SOFT_RESET; the others never have one. -/
theorem fatalStateIgnoresEveryOtherWrite : Obligations.FatalStateIgnoresEveryOtherWrite := by
  intro s index v herr hne
  obtain heffective | hignored := write_turn_cases index v
  · have run {i : Instr} (hi : decodeWrite index v = .instr i) : hostTurn (.write index v) s = exec i s :=
      hostTurn_of_instr (a := .write index v) hi s
    simp only [List.mem_cons, List.not_mem_nil, or_false] at heffective
    obtain hd | hd | hd | hd := heffective
    · have hv : v ≠ softResetWord := by
        rintro rfl
        exact hne (by rw [index_of_wrCmd hd]; rfl)
      rw [run hd, exec_wrCmd, submit_of_error hv herr]
    · exact (run hd).trans (congrArg Host.Outcome.next (writeData_of_error _ herr))
    · exact (run hd).trans (congrArg Host.Outcome.next (writeData_of_error _ herr))
    · exact (run hd).trans (congrArg Host.Outcome.next (writeData_of_error _ herr))
  · exact hignored s

/-! ## The reset action (70_reset_and_hazards.md R270) -/

/-- Settles O53: the four ways all perform `resetAction`. -/
theorem resetSetsEveryRegister : Obligations.ResetSetsEveryRegister := fun s =>
  ⟨resetAction s, _, _, _, _, _, _, rfl, rfl, rfl, congrArg Host.Outcome.next (submit_of_softReset rfl s),
    congrArg Host.Outcome.next (submit_of_softReset rfl s)⟩

end Sys2Proof.Machine
end

section
/-! PROOFS. The statements about every instruction: what each leaves alone, and which part of the state it does not read
(10_state.md R22, R29; 41_key_schedule.md R126; 60_exceptions.md R246). -/

namespace Sys2Proof.Machine

/-! ## Everything an instruction can do -/

/-- An instruction is a command, one of the four writes that can have an effect, or changes at most what the host has
received and the count of draws. -/
theorem exec_cases {i : Instr} {s t : State} (h : exec i s = .next t) :
    Spec.isCommand i ∨ (∃ v, i = .wrCmd v ∧ t = submit v s) ∨
      (∃ v, i = .wrKey v ∧ t = writeData (fun u => { u with key := v, ksValid := false }) s) ∨
      (∃ v, i = .wrIv v ∧ t = writeData (fun u => { u with iv := v }) s) ∨
      (∃ v, i = .wrDin v ∧ t = writeData (fun u => { u with din := v }) s) ∨
      ∃ rc n, t = { s with received := rc, draws := n } := by
  have openRead {index : PortIndex} {exact : Word} {busyValue : Word → Word}
      (hread : .next (readOpen index exact busyValue s) = (Host.Outcome.next t : Host.Outcome State Fault Refusal)) :
      ∃ rc n, t = { s with received := rc, draws := n } := by
    obtain ⟨v, n, hframe⟩ := readOpen_frame index exact busyValue s
    cases hread
    exact ⟨_, n, hframe⟩
  cases i with
  | nop | ksched | cbcStart | btFwd | btRev | cbcEnc | cbcDec | softReset => exact .inl ⟨_, rfl⟩
  | roundF arg | cbcEncFinal arg | cbcDecEnd arg => exact .inl ⟨_, rfl⟩
  | wrCmd v => cases h; exact .inr (.inl ⟨v, rfl, rfl⟩)
  | wrKey v => cases h; exact .inr (.inr (.inl ⟨v, rfl, rfl⟩))
  | wrIv v => cases h; exact .inr (.inr (.inr (.inl ⟨v, rfl, rfl⟩)))
  | wrDin v => cases h; exact .inr (.inr (.inr (.inr (.inl ⟨v, rfl, rfl⟩))))
  | rdStatus | rdDout | rdChain | rdRk1 | rdRk2 | rdRk3 | rdRk4 | rdRk5 | rdRk6 | rdRk7 | rdRk8 | rdRk9 | rdRk10 | rdRk11
  | rdRk12 | rdRk13 | rdRk14 | rdRk15 | rdRk16 => exact .inr (.inr (.inr (.inr (.inr (openRead h)))))
  | _ => cases h; exact .inr (.inr (.inr (.inr (.inr ⟨_, _, rfl⟩))))

/-- A write of CMD other than SOFT_RESET changes at most the recorded error and PEND. -/
theorem submit_frame {w : Word} (hw : w ≠ softResetWord) (s : State) :
    ∃ e p, submit w s = { s with error := e, pend := p } := by
  rcases submit_cases w s with ⟨hreset, -⟩ | ⟨-, -, h⟩ | ⟨-, -, code, h⟩ | ⟨-, -, -, -, h⟩
  · exact absurd hreset hw
  · exact ⟨s.error, s.pend, h⟩
  · exact ⟨some code, s.pend, h⟩
  · exact ⟨s.error, some w, h⟩

/-- A write of KEY, IV or DIN changes at most the recorded error, or does what it stores. -/
theorem writeData_frame (store : State → State) (s : State) :
    (∃ e, writeData store s = { s with error := e }) ∨ writeData store s = store s := by
  rcases writeData_cases store s with ⟨-, h⟩ | ⟨-, -, h⟩ | ⟨-, -, h⟩
  · exact .inl ⟨s.error, h⟩
  · exact .inl ⟨_, h⟩
  · exact .inr h

/-- The registers and fields that a command other than SOFT_RESET may write, by the command (10_state.md R22, R29, R38). -/
theorem command_writes {i : Instr} {s t : State} (hcmd : Spec.isCommand i) (hi : i ≠ .softReset)
    (h : exec i s = .next t) :
    (t.dout ≠ s.dout → i ∈ [Instr.btFwd, .btRev, .cbcEnc, .cbcDec] ∨ ∃ a, i = .roundF a ∨ i = .cbcEncFinal a) ∧
    (t.chain ≠ s.chain → i ∈ [Instr.cbcStart, .cbcEnc, .cbcDec] ∨ ∃ a, i = .cbcEncFinal a) ∧
    (t.rk ≠ s.rk → i = .ksched) ∧ (t.ksValid ≠ s.ksValid → i = .ksched) ∧
    (t.decSeen ≠ s.decSeen → i = .cbcStart ∨ i = .cbcDec) ∧
    (t.truncWarn ≠ s.truncWarn ∨ t.padWarn ≠ s.padWarn ∨ t.padlen ≠ s.padlen →
      i = .cbcStart ∨ ∃ a, i = .cbcDecEnd a) ∧
    (t.c ≠ s.c ∨ t.d ≠ s.d → i = .ksched) := by
  cases i with
  | softReset => exact absurd rfl hi
  | cbcDecEnd tail => rw [exec_cbcDecEnd] at h; cases h; simp
  | nop | ksched | cbcStart | btFwd | btRev | cbcEnc | cbcDec => cases h; simp [encryptAndChain]
  | roundF arg | cbcEncFinal arg => cases h; simp [encryptAndChain]
  | _ => obtain ⟨w, hw⟩ := hcmd; cases hw

/-- Settles O52: the commands by `command_writes` and `command_frame`, the writes by what each stores, and no other access
changes a register. -/
theorem onlyTheListedInstructionsWriteEachRegister : Obligations.OnlyTheListedInstructionsWriteEachRegister := by
  intro i s t h hi hne
  rcases exec_cases h with hcmd | ⟨v, rfl, rfl⟩ | ⟨v, rfl, rfl⟩ | ⟨v, rfl, rfl⟩ | ⟨v, rfl, rfl⟩ | ⟨rc, n, rfl⟩
  · obtain ⟨w, hw⟩ := hcmd
    obtain ⟨-, herr, hkey, hiv, hdin, hsched, -⟩ := command_frame hw hi h
    obtain ⟨hdout, hchain, hrk, hks, hseen, hpad, hcd⟩ := command_writes ⟨w, hw⟩ hi h
    exact ⟨absurd hkey, absurd hiv, absurd hdin, hdout, hchain, hrk, fun hk => .inl (hks hk), hseen, hpad, absurd herr, hcd,
      fun _ => .inl ⟨w, hw⟩, hsched⟩
  · have hv : v ≠ softResetWord := fun hv => hne (congrArg Instr.wrCmd hv)
    obtain ⟨e, p, hframe⟩ := submit_frame hv s
    simp [hframe]
  · obtain ⟨e, hframe⟩ | hframe := writeData_frame (fun u => { u with key := v, ksValid := false }) s <;> simp [hframe]
  · obtain ⟨e, hframe⟩ | hframe := writeData_frame (fun u => { u with iv := v }) s <;> simp [hframe]
  · obtain ⟨e, hframe⟩ | hframe := writeData_frame (fun u => { u with din := v }) s <;> simp [hframe]
  · simp

/-- No instruction changes the turns still to come, the reset action included. -/
theorem exec_schedule {i : Instr} {s t : State} (h : exec i s = .next t) : t.schedule = s.schedule := by
  by_cases hi : i = .softReset
  · rw [hi] at h
    cases h
    rfl
  by_cases hne : i = .wrCmd softResetWord
  · rw [hne, exec_wrCmd, submit_of_softReset rfl] at h
    cases h
    rfl
  obtain ⟨-, -, -, -, -, -, -, -, -, -, -, -, hsched⟩ :=
    onlyTheListedInstructionsWriteEachRegister i s t h hi hne
  exact hsched

/-! ## What a command does not read (60_exceptions.md R246) -/

/-- A command other than SOFT_RESET does not read the recorded error, the schedule or what the host has received, and
keeps them. -/
theorem exec_command_of_other_host_state {i : Instr} {s t : State} (hcmd : Spec.isCommand i) (hi : i ≠ .softReset)
    (h : exec i s = .next t) (e : Option ErrCode) (turns : List Turn) (rc : List (PortIndex × Word)) :
    exec i { s with error := e, schedule := turns, received := rc } =
      .next { t with error := e, schedule := turns, received := rc } := by
  cases i with
  | softReset => exact absurd rfl hi
  | cbcDecEnd tail => rw [exec_cbcDecEnd] at h ⊢; cases h; rfl
  | nop | ksched | cbcStart | btFwd | btRev | cbcEnc | cbcDec => cases h; rfl
  | roundF arg | cbcEncFinal arg => cases h; rfl
  | _ => obtain ⟨w, hw⟩ := hcmd; cases hw

/-- The count of draws decides only the unspecified halves and round counter of the block transform (10_state.md R39). -/
theorem exec_command_of_other_draws {i : Instr} {s t : State} (hcmd : Spec.isCommand i) (hi : i ≠ .softReset)
    (h : exec i s = .next t) (n : Nat) :
    ∃ l r k m, exec i { s with draws := n } = .next { t with l := l, r := r, round := k, draws := m } := by
  cases i with
  | softReset => exact absurd rfl hi
  | cbcDecEnd tail => rw [exec_cbcDecEnd] at h ⊢; cases h; exact ⟨_, _, _, _, rfl⟩
  | nop | ksched | cbcStart | btFwd | btRev | cbcEnc | cbcDec => cases h; exact ⟨_, _, _, _, rfl⟩
  | roundF arg | cbcEncFinal arg => cases h; exact ⟨_, _, _, _, rfl⟩
  | _ => obtain ⟨w, hw⟩ := hcmd; cases hw

theorem exec_command_of_other_error {i : Instr} {s t : State} (hcmd : Spec.isCommand i) (hi : i ≠ .softReset)
    (h : exec i s = .next t) (e : Option ErrCode) : exec i { s with error := e } = .next { t with error := e } := by
  obtain ⟨w, hw⟩ := hcmd
  obtain ⟨-, -, -, -, -, hsched, hrc⟩ := command_frame hw hi h
  rw [exec_command_of_other_host_state ⟨w, hw⟩ hi h e s.schedule s.received, ← hsched, ← hrc]

/-- Settles O11: no command reads the recorded error. -/
theorem recordedErrorDoesNotDisturbACommand : Obligations.RecordedErrorDoesNotDisturbACommand :=
  fun _ _ _ e hcmd hi h => exec_command_of_other_error hcmd hi h e

/-! ## KEY (41_key_schedule.md R126) -/

theorem submit_of_other_key {w : Word} (hw : w ≠ softResetWord) (s : State) (k : Word) :
    submit w { s with key := k } = { submit w s with key := k } := by
  obtain herr | herr := ne_or_eq s.error none
  · rw [submit_of_error hw herr, submit_of_error hw (s := { s with key := k }) herr]
  obtain hpend | hpend := ne_or_eq s.pend none
  · rw [submit_of_busy hw herr hpend, submit_of_busy hw (s := { s with key := k }) herr hpend]
  cases hd : decodeCommand w with
  | reject why => rw [submit_of_reject hw herr hpend hd, submit_of_reject hw (s := { s with key := k }) herr hpend hd]
  | instr i =>
    rw [submit_of_instr hw herr hpend hd, submit_of_instr hw (s := { s with key := k }) herr hpend hd]
    dsimp only
    split <;> rfl

theorem writeData_of_other_key (store : State → State) (s : State) (k : Word)
    (hstore : store { s with key := k } = { store s with key := k }) :
    writeData store { s with key := k } = { writeData store s with key := k } := by
  obtain herr | herr := ne_or_eq s.error none
  · rw [writeData_of_error store herr, writeData_of_error store (s := { s with key := k }) herr]
  obtain hpend | hpend := ne_or_eq s.pend none
  · rw [writeData_of_busy store herr hpend, writeData_of_busy store (s := { s with key := k }) herr hpend]
  · rw [writeData_of_idle store herr hpend, writeData_of_idle store (s := { s with key := k }) herr hpend, hstore]

theorem readOpen_of_other_key (index : PortIndex) (exact : Word) (busyValue : Word → Word) (s : State) (k : Word) :
    readOpen index exact busyValue { s with key := k } = { readOpen index exact busyValue s with key := k } := by
  cases hbusy : s.busy with
  | false =>
    rw [readOpen_of_idle index exact busyValue hbusy, readOpen_of_idle (s := { s with key := k }) _ _ _ hbusy]
    rfl
  | true =>
    rw [readOpen_of_busy index exact busyValue hbusy, readOpen_of_busy (s := { s with key := k }) _ _ _ hbusy]
    rfl

/-- Settles O16: KSCHED reads KEY, and its key file is the same for every key; nothing else but `rd KEY` reads it. -/
theorem keyHasNoOtherObservableEffect : Obligations.KeyHasNoOtherObservableEffect := by
  intro i s t k hrd hwr hi hne h
  cases i with
  | rdKey => exact absurd rfl hrd
  | wrKey v => exact absurd rfl (hwr v)
  | softReset => exact absurd rfl hi
  | ksched => rw [exec_ksched] at h ⊢; cases h; rfl
  | cbcDecEnd tail => rw [exec_cbcDecEnd] at h ⊢; cases h; rfl
  | wrCmd v =>
    cases h
    exact congrArg Host.Outcome.next (submit_of_other_key (fun hv => hne (congrArg Instr.wrCmd hv)) s k)
  | wrIv v => cases h; exact congrArg Host.Outcome.next (writeData_of_other_key _ s k rfl)
  | wrDin v => cases h; exact congrArg Host.Outcome.next (writeData_of_other_key _ s k rfl)
  | rdStatus | rdDout | rdChain | rdRk1 | rdRk2 | rdRk3 | rdRk4 | rdRk5 | rdRk6 | rdRk7 | rdRk8 | rdRk9 | rdRk10 | rdRk11
  | rdRk12 | rdRk13 | rdRk14 | rdRk15 | rdRk16 =>
    cases h
    exact congrArg Host.Outcome.next (readOpen_of_other_key _ _ _ s k)
  | _ => cases h; rfl

end Sys2Proof.Machine
end

section
/-! PROOFS. The statements about turns: errors, operands and results of a command in flight (20_memory.md R63;
45_control.md R225; 60_exceptions.md R246, R247). -/

namespace Sys2Proof.Machine

/-! ## The engine's turn on a legal PEND -/

/-- A legal PEND holds a command other than SOFT_RESET, and the engine performs it. -/
theorem engineTurn_of_pendLegal {s : State} {w : Word} (h : s.pendLegal) (hw : s.pend = some w) :
    ∃ i, Spec.isCommand i ∧ i ≠ .softReset ∧ decodeCommand w = .instr i ∧ engineTurn s = exec i s := by
  obtain ⟨i, hd, hi, -⟩ := h w hw
  exact ⟨i, ⟨w, (encode_of_decodeCommand hd).2⟩, hi, hd, engineTurn_of_command hw hd⟩

/-- The engine's turn on a legal or empty PEND answers, completes, and keeps the recorded error. -/
theorem engineTurn_completes {s : State} (h : s.pendLegal) :
    ∃ t, engineTurn s = .next t ∧ t.error = s.error ∧ t.pend = none := by
  cases hp : s.pend with
  | none => exact ⟨s, engineTurn_of_idle hp, rfl, hp⟩
  | some w =>
    obtain ⟨i, ⟨v, hv⟩, hi, -, hturn⟩ := engineTurn_of_pendLegal h hp
    obtain ⟨t, ht⟩ := exec_answers_next i s
    obtain ⟨hpend, herr, -⟩ := command_frame hv hi ht
    exact ⟨t, hturn.trans ht, herr, hpend⟩

/-! ## The schedule -/

theorem step_of_nil {s : State} (h : s.schedule = []) : step s = engineTurn s := (step_eq s).trans (nextTurn_of_nil h)

theorem step_of_cons {s : State} {turn : Turn} {rest : List Turn} (h : s.schedule = turn :: rest) :
    step s = takeTurn turn { s with schedule := rest } := (step_eq s).trans (nextTurn_of_cons h)

theorem hostTurn_softReset (s : State) : hostTurn (.write 0#5 softResetWord) s = .next (resetAction s) :=
  (hostTurn_of_instr (a := .write 0#5 softResetWord) (i := .wrCmd softResetWord) rfl s).trans
    (congrArg Host.Outcome.next (submit_of_softReset rfl s))

theorem hostTurn_schedule {a : Access} {s t : State} (h : hostTurn a s = .next t) : t.schedule = s.schedule := by
  cases hd : decodeAccess a with
  | instr i =>
    rw [hostTurn_of_instr hd] at h
    exact exec_schedule h
  | reject why =>
    rw [hostTurn_of_reserved hd] at h
    cases h
    cases a <;> rfl

theorem engineTurn_schedule {s t : State} (h : engineTurn s = .next t) : t.schedule = s.schedule := by
  cases hp : s.pend with
  | none =>
    rw [engineTurn_of_idle hp] at h
    cases h
    rfl
  | some w =>
    cases hd : decodeCommand w with
    | instr i =>
      rw [engineTurn_of_command hp hd] at h
      exact exec_schedule h
    | reject why => simp [engineTurn, hp, hd] at h

/-- A step uses up the turn that the schedule has next, and nothing else of it. -/
theorem step_schedule {s t : State} (h : step s = .next t) : t.schedule = s.schedule.tail := by
  cases hsched : s.schedule with
  | nil =>
    rw [step_of_nil hsched] at h
    exact (engineTurn_schedule h).trans hsched
  | cons turn rest =>
    rw [step_of_cons hsched] at h
    cases turn with
    | reset => cases h; rfl
    | engine => exact engineTurn_schedule h
    | access a => exact hostTurn_schedule h

/-! ## Errors (R246, R247) -/

/-- Settles O10: an access changes the recorded error only where `hostTurn_cases` has it record the first one. -/
theorem errorsArePreciseAndNeverFromTheEngine : Obligations.ErrorsArePreciseAndNeverFromTheEngine := by
  refine ⟨fun a s t ha h hne => ?_, fun s hs => ?_⟩
  · rcases hostTurn_cases a s ha with ⟨e, herr, ht⟩ | ⟨rc, n, ht⟩ | ⟨-, -, k, valid, iv, din, pend, ht, -⟩ <;>
      rw [ht] at h <;> cases h
    · exact ⟨herr, rfl⟩
    · exact absurd rfl hne
    · exact absurd rfl hne
  · exact engineTurn_completes hs

theorem hostTurn_keeps_error {a : Access} {s t : State} {e : ErrCode} (ha : a ≠ .write 0#5 softResetWord)
    (h : hostTurn a s = .next t) (herr : s.error = some e) : t.error = some e := by
  by_contra hne
  have hchanged : t.error ≠ s.error := herr ▸ hne
  obtain ⟨hnone, -⟩ := errorsArePreciseAndNeverFromTheEngine.1 a s t ha h hchanged
  simp [herr] at hnone

theorem engineTurn_keeps_error {s t : State} (hs : s.pendLegal) (h : engineTurn s = .next t) : t.error = s.error := by
  obtain ⟨u, hu, herr, -⟩ := engineTurn_completes hs
  cases hu.symm.trans h
  exact herr

/-- Settles O9, by the turn that the schedule has next. -/
theorem recordedErrorIsKeptUntilReset : Obligations.RecordedErrorIsKeptUntilReset := by
  intro s t e hs hstep herr hreset hsoft
  cases hsched : s.schedule with
  | nil =>
    rw [step_of_nil hsched] at hstep
    exact (engineTurn_keeps_error hs hstep).trans herr
  | cons turn rest =>
    rw [step_of_cons hsched] at hstep
    cases turn with
    | reset => exact absurd hsched (hreset rest)
    | engine => exact (engineTurn_keeps_error (s := { s with schedule := rest }) hs hstep).trans herr
    | access a =>
      have ha : a ≠ .write 0#5 softResetWord := by
        rintro rfl
        exact hsoft rest hsched
      exact hostTurn_keeps_error (s := { s with schedule := rest }) ha hstep herr

/-! ## A command in flight (20_memory.md R63, 45_control.md R225) -/

/-- Settles O43: the write records BUSY_WRITE, which no command reads. -/
theorem dataWriteWhileBusyIsDiscarded : Obligations.DataWriteWhileBusyIsDiscarded := by
  intro v s herr hpend
  refine ⟨fun i hi => ?_, fun u hs hu => ?_⟩
  · fin_cases hi <;> exact congrArg Host.Outcome.next (writeData_of_busy _ herr hpend)
  · obtain ⟨w, hw⟩ := Option.ne_none_iff_exists'.mp hpend
    obtain ⟨i, hcmd, hi, hd, hturn⟩ := engineTurn_of_pendLegal hs hw
    rw [engineTurn_of_command (s := { s with error := some .busyWrite }) hw hd]
    exact exec_command_of_other_error hcmd hi (hturn.symm.trans hu) _

/-- Settles O59: of the three things an access can do, the third needs an idle core. -/
theorem operandsAreStableInFlight : Obligations.OperandsAreStableInFlight := by
  intro a s t hpend ha h
  rcases hostTurn_cases a s ha with ⟨e, -, ht⟩ | ⟨rc, n, ht⟩ | ⟨-, hidle, -⟩
  · rw [ht] at h
    cases h
    rfl
  · rw [ht] at h
    cases h
    rfl
  · exact absurd hidle hpend

/-- Accesses other than the SOFT_RESET write, made while a command is in flight, leave the run where it was but for the
recorded error, what the host has received and the count of draws. -/
theorem run_accesses_in_flight {accesses : List Access} {rest : List Turn} {s u : State} (k : Nat)
    (hpend : s.pend ≠ none) (hsoft : Spec.softResetWrite ∉ accesses)
    (hsched : s.schedule = accesses.map Turn.access ++ rest)
    (hrun : Host.Core.run core (accesses.length + k) s = .next u) :
    ∃ e rc n, Host.Core.run core k { s with error := e, schedule := rest, received := rc, draws := n } = .next u := by
  induction accesses generalizing s with
  | nil =>
    have hrest : s.schedule = rest := hsched
    rw [List.length_nil, Nat.zero_add] at hrun
    exact ⟨s.error, s.received, s.draws, hrest ▸ hrun⟩
  | cons a as ih =>
    rw [List.mem_cons, not_or] at hsoft
    obtain ⟨ha, has⟩ := hsoft
    obtain ⟨t, ht⟩ := hostTurn_answers_next a { s with schedule := as.map Turn.access ++ rest }
    have hstep : step s = .next t := (step_of_cons hsched).trans ht
    rw [List.length_cons, Nat.add_right_comm, core_run_of_step _ hstep] at hrun
    have hframe := operandsAreStableInFlight a { s with schedule := as.map Turn.access ++ rest } t hpend (Ne.symm ha) ht
    rw [hframe] at hrun
    exact ih (s := { s with error := t.error, schedule := as.map Turn.access ++ rest, received := t.received,
                            draws := t.draws }) hpend has rfl hrun

/-- Settles O60: the accesses leave the operands alone, and the command reads nothing else that they change. -/
theorem resultDoesNotDependOnLatency : Obligations.ResultDoesNotDependOnLatency := by
  intro s t u accesses hs hpend hsoft hsched hturn hrun
  obtain ⟨w, hw⟩ := Option.ne_none_iff_exists'.mp hpend
  obtain ⟨i, hcmd, hi, hd, hexec⟩ := engineTurn_of_pendLegal hs hw
  have hlen : s.schedule.length = accesses.length + 1 := by simp [hsched]
  rw [hlen] at hrun
  obtain ⟨e, rc, n, hlast⟩ := run_accesses_in_flight 1 hpend hsoft hsched hrun
  obtain ⟨l, r, k, m, hdraws⟩ := exec_command_of_other_draws hcmd hi (hexec.symm.trans hturn) n
  have hother := exec_command_of_other_host_state hcmd hi hdraws e [] rc
  have hengine := (engineTurn_of_command (s := { s with error := e, schedule := [], received := rc, draws := n })
    hw hd).trans hother
  have hstep := (step_of_cons (s := { s with error := e, schedule := [.engine], received := rc, draws := n }) rfl).trans
    hengine
  rw [core_run_of_step 0 hstep] at hlast
  cases hlast
  rfl

end Sys2Proof.Machine
end

section
/-! PROOFS. The statements about steps and runs: which meaning a step has, the invariant, and the end of a run
(10_state.md R20, R40; 70_reset_and_hazards.md R278, R279). -/

namespace Sys2Proof.Machine

/-! ## What a step is -/

theorem hostTurn_write_of_reserved {index : PortIndex} (h : Spec.reserved index) (v : Word) (s : State) :
    hostTurn (.write index v) s = .next s :=
  hostTurn_of_reserved (a := .write index v) (decodeWrite_of_reserved h v) s

/-- Settles O55: a step is the turn the schedule has next, and each kind of turn has its meaning. -/
theorem stepRunsTheDecodedInstruction : Obligations.StepRunsTheDecodedInstruction := by
  refine ⟨fun s rest a i hsched hd => ?_, fun s rest a hsched => ?_, fun s rest index hsched hres => ?_,
    fun s rest index v hsched hres => ?_, fun s rest hsched => ?_, fun s rest w i hsched hpend hd => ?_,
    fun s w i hsched hpend hd => ?_, fun s rest hsched hpend => ?_, fun s hsched hpend => ?_⟩
  · exact (step_of_cons hsched).trans (hostTurn_of_instr hd _)
  · exact step_of_cons hsched
  · exact (step_of_cons hsched).trans (hostTurn_read_of_reserved hres _)
  · exact (step_of_cons hsched).trans (hostTurn_write_of_reserved hres v _)
  · exact ⟨step_of_cons hsched, step_of_cons hsched⟩
  · exact (step_of_cons hsched).trans (engineTurn_of_command hpend hd)
  · exact (step_of_nil hsched).trans (engineTurn_of_command hpend hd)
  · exact (step_of_cons hsched).trans (engineTurn_of_idle hpend)
  · exact (step_of_nil hsched).trans (engineTurn_of_idle hpend)

/-! ## The invariant -/

theorem pendLegal_of_none {s : State} (h : s.pend = none) : s.pendLegal := fun w hw => by simp [h] at hw

theorem sessionHolds_of_invalid {s : State} (h : s.ksValid = false) : s.sessionHolds := fun hv => by simp [h] at hv

/-- The invariant does not speak of the schedule. -/
theorem inv_of_other_schedule {s : State} (h : s.Inv) (turns : List Turn) : State.Inv { s with schedule := turns } :=
  ⟨h.pending, h.session, h.padding⟩

/-- Settles O56: no command is in flight, the keys are not valid, and the padding fields are 0. -/
theorem resetMeetsTheInvariant : Obligations.ResetMeetsTheInvariant :=
  ⟨pendLegal_of_none rfl, sessionHolds_of_invalid rfl, Nat.zero_le _, fun _ => rfl⟩

theorem resetAction_inv (s : State) : (resetAction s).Inv :=
  ⟨pendLegal_of_none rfl, sessionHolds_of_invalid rfl, Nat.zero_le _, fun _ => rfl⟩

theorem padlenOf_of_invalid {check : Bool × Byte} (h : check.1 = false) : padlenOf check = 0#4 := by
  simp [padlenOf, h]

/-- A valid padding is at most 8, which fits PADLEN (44_cbc.md R187). -/
theorem toNat_padlenOf_padCheck_le (w : Word) : (padlenOf (padCheck w)).toNat ≤ 8 := by
  cases hvalid : (padCheck w).1 with
  | false =>
    rw [padlenOf_of_invalid hvalid]
    exact Nat.zero_le _
  | true =>
    obtain ⟨-, h8, -⟩ := (padCheck_fst_iff w).mp hvalid
    rw [padlenOf, if_pos hvalid, padCheck_snd, BitVec.toNat_setWidth]
    exact (Nat.mod_le _ _).trans h8

theorem cbcDecEnd_paddingHolds {tail : BitVec 4} {s t : State} (h : exec (.cbcDecEnd tail) s = .next t) :
    t.paddingHolds := by
  rw [exec_cbcDecEnd] at h
  cases h
  cases hseen : s.decSeen with
  | false => simp [State.paddingHolds]
  | true =>
    refine ⟨?_, fun hwarn => ?_⟩
    · simpa using toNat_padlenOf_padCheck_le s.dout
    · have hinvalid : (padCheck s.dout).1 = false := by simpa using hwarn
      simp [padlenOf_of_invalid hinvalid]

/-- KSCHED writes the schedule of KEY and the last halves; no other command writes KEY, the key file, C or D. -/
theorem command_sessionHolds {i : Instr} {s t : State} (hcmd : Spec.isCommand i) (hi : i ≠ .softReset)
    (hs : s.sessionHolds) (h : exec i s = .next t) : t.sessionHolds := by
  cases i with
  | softReset => exact absurd rfl hi
  | ksched =>
    rw [exec_ksched] at h
    cases h
    exact fun _ => ⟨(keyFile_eq s.key).symm, rfl, rfl⟩
  | cbcDecEnd tail => rw [exec_cbcDecEnd] at h; cases h; exact hs
  | nop | cbcStart | btFwd | btRev | cbcEnc | cbcDec => cases h; exact hs
  | roundF arg | cbcEncFinal arg => cases h; exact hs
  | _ => obtain ⟨w, hw⟩ := hcmd; cases hw

/-- CBC_START clears PADLEN and PAD_WARN, and CBC_DEC_END sets them together. -/
theorem command_paddingHolds {i : Instr} {s t : State} (hcmd : Spec.isCommand i) (hi : i ≠ .softReset)
    (hs : s.paddingHolds) (h : exec i s = .next t) : t.paddingHolds := by
  cases i with
  | softReset => exact absurd rfl hi
  | cbcStart => cases h; exact ⟨Nat.zero_le _, fun _ => rfl⟩
  | cbcDecEnd tail => exact cbcDecEnd_paddingHolds h
  | nop | ksched | btFwd | btRev | cbcEnc | cbcDec => cases h; exact hs
  | roundF arg | cbcEncFinal arg => cases h; exact hs
  | _ => obtain ⟨w, hw⟩ := hcmd; cases hw

theorem engineTurn_inv {s t : State} (hs : s.Inv) (h : engineTurn s = .next t) : t.Inv := by
  cases hp : s.pend with
  | none =>
    rw [engineTurn_of_idle hp] at h
    cases h
    exact hs
  | some w =>
    obtain ⟨i, ⟨v, hv⟩, hi, -, hturn⟩ := engineTurn_of_pendLegal hs.pending hp
    have hexec := hturn.symm.trans h
    obtain ⟨hpend, -⟩ := command_frame hv hi hexec
    exact ⟨pendLegal_of_none hpend, command_sessionHolds ⟨v, hv⟩ hi hs.session hexec,
      command_paddingHolds ⟨v, hv⟩ hi hs.padding hexec⟩

/-- The SOFT_RESET word alone decodes to SOFT_RESET. -/
theorem decodeCommand_softReset {w : Word} (h : decodeCommand w = .instr .softReset) : w = softResetWord := by
  obtain ⟨-, hcode⟩ := encode_of_decodeCommand h
  exact (Code.command.inj hcode).symm.trans (by decide)

theorem hostTurn_inv {a : Access} {s t : State} (hs : s.Inv) (h : hostTurn a s = .next t) : t.Inv := by
  by_cases ha : a = .write 0#5 softResetWord
  · rw [ha, hostTurn_softReset] at h
    cases h
    exact resetAction_inv s
  rcases hostTurn_cases a s ha with
    ⟨e, -, ht⟩ | ⟨rc, n, ht⟩ | ⟨-, -, k, valid, iv, din, pend, ht, hvalid, hpend⟩ <;> rw [ht] at h <;> cases h
  · exact ⟨hs.pending, hs.session, hs.padding⟩
  · exact ⟨hs.pending, hs.session, hs.padding⟩
  · refine ⟨?_, ?_, hs.padding⟩
    · rcases hpend with rfl | ⟨rfl, w, i, rfl, hd, hw, hkeys⟩
      · exact pendLegal_of_none rfl
      · intro v hv
        cases hv
        exact ⟨i, hd, fun hi => hw (decodeCommand_softReset (hi ▸ hd)), hkeys⟩
    · rcases hvalid with ⟨rfl, rfl⟩ | rfl
      · exact hs.session
      · exact sessionHolds_of_invalid rfl

/-- Settles O57, by the turn that the schedule has next. -/
theorem stepKeepsTheInvariant : Obligations.StepKeepsTheInvariant := by
  intro s t hs h
  cases hsched : s.schedule with
  | nil =>
    rw [step_of_nil hsched] at h
    exact engineTurn_inv hs h
  | cons turn rest =>
    rw [step_of_cons hsched] at h
    have hs' := inv_of_other_schedule hs rest
    cases turn with
    | reset => cases h; exact resetAction_inv _
    | engine => exact engineTurn_inv hs' h
    | access a => exact hostTurn_inv hs' h

/-! ## The end of a run -/

/-- From a state of the invariant a step answers one, with its turn used up. -/
theorem step_answers_next {s : State} (hs : s.Inv) :
    ∃ t, step s = .next t ∧ t.Inv ∧ t.schedule = s.schedule.tail := by
  obtain ⟨t, ht⟩ : ∃ t, step s = .next t := by
    cases hsched : s.schedule with
    | nil =>
      rw [step_of_nil hsched]
      obtain ⟨t, ht, -⟩ := engineTurn_completes hs.pending
      exact ⟨t, ht⟩
    | cons turn rest =>
      rw [step_of_cons hsched]
      cases turn with
      | reset => exact ⟨_, rfl⟩
      | engine =>
        obtain ⟨t, ht, -⟩ := engineTurn_completes (inv_of_other_schedule hs rest).pending
        exact ⟨t, ht⟩
      | access a => exact hostTurn_answers_next a _
  exact ⟨t, ht, stepKeepsTheInvariant s t hs ht, step_schedule ht⟩

/-- With the schedule used up a step is the engine's, and leaves nothing in flight. -/
theorem step_after_schedule {s : State} (hs : s.Inv) (h : s.schedule = []) :
    ∃ t, step s = .next t ∧ t.schedule = [] ∧ t.pend = none := by
  obtain ⟨t, ht, -, hpend⟩ := engineTurn_completes hs.pending
  exact ⟨t, (step_of_nil h).trans ht, (engineTurn_schedule ht).trans h, hpend⟩

theorem run_leaves_nothing_in_flight {n : Nat} {s : State} (hs : s.Inv) (hn : s.schedule.length = n) :
    ∃ t : State, Host.Core.run core (n + 1) s = .next t ∧ t.schedule = [] ∧ t.pend = none := by
  induction n generalizing s with
  | zero =>
    obtain ⟨t, ht, hdone⟩ := step_after_schedule hs (List.eq_nil_of_length_eq_zero hn)
    exact ⟨t, core_run_of_step 0 ht, hdone⟩
  | succ n ih =>
    obtain ⟨t, ht, hinv, htail⟩ := step_answers_next hs
    obtain ⟨u, hu, hdone⟩ := ih hinv (by rw [htail, List.length_tail, hn, Nat.add_sub_cancel])
    exact ⟨u, (core_run_of_step _ ht).trans hu, hdone⟩

theorem runEnded_of_done {s : State} (hsched : s.schedule = []) (hpend : s.pend = none) : s.runEnded = true :=
  (runEnded_iff s).mpr ⟨fun a ha => by simp [hsched] at ha, hpend⟩

theorem runToEnd_ends {n : Nat} {s : State} (hs : s.Inv) (hn : s.schedule.length = n) :
    ∃ e, runToEnd (n + 1) s = .next e ∧ e.runEnded = true := by
  induction n generalizing s with
  | zero =>
    cases hended : s.runEnded with
    | true => exact ⟨s, runToEnd_of_ended _ hended, hended⟩
    | false =>
      obtain ⟨t, ht, hsched, hpend⟩ := step_after_schedule hs (List.eq_nil_of_length_eq_zero hn)
      exact ⟨t, runToEnd_of_step 0 hended ht, runEnded_of_done hsched hpend⟩
  | succ n ih =>
    cases hended : s.runEnded with
    | true => exact ⟨s, runToEnd_of_ended _ hended, hended⟩
    | false =>
      obtain ⟨t, ht, hinv, htail⟩ := step_answers_next hs
      obtain ⟨e, he, hdone⟩ := ih hinv (by rw [htail, List.length_tail, hn, Nat.add_sub_cancel])
      exact ⟨e, (runToEnd_of_step _ hended ht).trans he, hdone⟩

/-- What a state that has not ended still has: an access of the host or a command in flight. -/
theorem access_or_pend_of_not_runEnded {s : State} (h : s.runEnded = false) :
    (∃ a, .access a ∈ s.schedule) ∨ s.pend ≠ none := by
  by_contra hdone
  rw [not_or, not_exists, not_not] at hdone
  simp [(runEnded_iff s).mpr hdone] at h

/-- Settles O58: one step uses up one turn, and the step after the last one completes what is in flight. -/
theorem everyRunEndsWithNoCommandInFlight : Obligations.EveryRunEndsWithNoCommandInFlight := by
  intro s hs
  obtain ⟨e, he, hended⟩ := runToEnd_ends hs rfl
  obtain ⟨n, hn, hrun, first⟩ := runToEnd_first he
  obtain ⟨hdone, hpend⟩ := (runEnded_iff e).mp hended
  exact ⟨run_leaves_nothing_in_flight hs rfl, n, e, hn, he, hrun, hdone, hpend,
    fun m u hm hu => access_or_pend_of_not_runEnded (first m u hm hu)⟩

end Sys2Proof.Machine
end

section
/-! PROOFS. The statement about the message-level codec: Decrypt of Encrypt is the message (44_cbc.md R188, R189, R194). -/

namespace Sys2Proof.Machine

/-! ## Byte sequences as blocks (R185) -/

theorem bitsFromBytes_append_right (p m : List Byte) (k : Nat) :
    bitsFromBytes (p ++ m) (p.length + k) = bitsFromBytes m k := by
  refine block_ext fun j hj => ?_
  rw [blockByte_bitsFromBytes _ _ hj, blockByte_bitsFromBytes _ _ hj, List.getD_append_right _ _ _ _ (by omega)]
  congr 1
  omega

theorem bitsFromBytes_append_left {m : List Byte} {k : Nat} (q : List Byte) (h : k + 8 ≤ m.length) :
    bitsFromBytes (m ++ q) k = bitsFromBytes m k := by
  refine block_ext fun j hj => ?_
  rw [blockByte_bitsFromBytes _ _ hj, blockByte_bitsFromBytes _ _ hj, List.getD_append _ _ _ _ (by omega)]

/-- A block's bytes before a sequence are its first block. -/
theorem wholeBlocks_block_append (b : Word) (m : List Byte) :
    wholeBlocks (bytesFromBits64 b ++ m) = b :: wholeBlocks m := by
  have hcount : (bytesFromBits64 b ++ m).length / 8 = m.length / 8 + 1 := by
    rw [List.length_append, bytesFromBits64_length]
    omega
  have hfirst : bitsFromBytes (bytesFromBits64 b ++ m) (8 * 0) = b := by
    rw [bitsFromBytes_append_left m (by simp), Nat.mul_zero, bitsFromBytes_bytesFromBits64]
  have hlater (i : Nat) : bitsFromBytes (bytesFromBits64 b ++ m) (8 * (i + 1)) = bitsFromBytes m (8 * i) := by
    rw [← bitsFromBytes_append_right (bytesFromBits64 b) m (8 * i), bytesFromBits64_length, Nat.mul_add, Nat.add_comm]
  rw [wholeBlocks, hcount, List.range_succ_eq_map, List.map_cons, hfirst, List.map_map, wholeBlocks]
  exact congrArg (b :: ·) (List.map_congr_left fun i _ => hlater i)

/-- The blocks of the bytes of blocks are the blocks. -/
theorem wholeBlocks_flatMap (bs : List Word) : wholeBlocks (bs.flatMap bytesFromBits64) = bs := by
  induction bs with
  | nil => rfl
  | cons b bs ih => rw [List.flatMap_cons, wholeBlocks_block_append, ih]

/-- The bytes of the first `n` blocks are the first 8n bytes. -/
theorem flatMap_blocks {m : List Byte} {n : Nat} (h : 8 * n ≤ m.length) :
    ((List.range n).map fun i => bitsFromBytes m (8 * i)).flatMap bytesFromBits64 = m.take (8 * n) := by
  induction n with
  | zero => rfl
  | succ n ih =>
    rw [List.range_succ, List.map_append, List.flatMap_append, ih (by omega), List.map_singleton, List.flatMap_singleton,
      bytesFromBits64_bitsFromBytes (by omega), ← List.take_add, Nat.mul_succ]

theorem flatMap_wholeBlocks {m : List Byte} (h : m.length % 8 = 0) :
    (wholeBlocks m).flatMap bytesFromBits64 = m := by
  rw [wholeBlocks, flatMap_blocks (Nat.mul_div_le _ _), List.take_of_length_le (by omega)]

theorem length_flatMap_bytes (bs : List Word) : (bs.flatMap bytesFromBits64).length = 8 * bs.length := by
  induction bs with
  | nil => rfl
  | cons b bs ih =>
    rw [List.flatMap_cons, List.length_append, bytesFromBits64_length, ih, List.length_cons, Nat.mul_succ, Nat.add_comm]

/-! ## The blocks of the padded message (R188, R190) -/

theorem blockByte_lastBlock (m : List Byte) (fill : Word) {k : Nat} (hk : k < 8) :
    blockByte (lastBlock m fill) k =
      if k < m.length % 8 then m.getD (8 * (m.length / 8) + k) 0#8 else blockByte fill k := blockByte_blockOf _ hk

/-- After the whole blocks of the message, the padded message has one more, its last bytes padded as CBC_ENC_FINAL pads
them, whatever fills the block. -/
theorem bitsFromBytes_padMessage_last (m : List Byte) (fill : Word) :
    bitsFromBytes (padMessage m) (8 * (m.length / 8)) = padBlock (lastBlock m fill) (m.length % 8) := by
  refine block_ext fun k hk => ?_
  rw [blockByte_bitsFromBytes _ _ hk, blockByte_padBlock _ _ hk, padMessage]
  split
  · next hin =>
    rw [List.getD_append _ _ _ _ (by omega), blockByte_lastBlock m fill hk, if_pos hin]
  · next hout =>
    rw [List.getD_append_right _ _ _ _ (by omega), List.getD_replicate _ (by rw [paddingCount_eq]; omega),
      paddingCount_eq]

theorem wholeBlocks_padMessage (m : List Byte) (fill : Word) :
    wholeBlocks (padMessage m) = wholeBlocks m ++ [padBlock (lastBlock m fill) (m.length % 8)] := by
  have hcount : (padMessage m).length / 8 = m.length / 8 + 1 := by
    rw [length_padMessage, paddingCount_eq]
    omega
  rw [wholeBlocks, hcount, List.range_succ, List.map_append, List.map_singleton, bitsFromBytes_padMessage_last m fill,
    wholeBlocks]
  refine congrArg (· ++ _) (List.map_congr_left fun i hi => ?_)
  have hin := List.mem_range.mp hi
  exact bitsFromBytes_append_left _ (by omega)

/-! ## The padding at the end of a stream (R189) -/

theorem getD_append_last_block (pre : List Byte) (d : Word) :
    (pre ++ bytesFromBits64 d).getD ((pre ++ bytesFromBits64 d).length - 1) 0#8 = blockByte d 7 := by
  have hlast : (pre ++ bytesFromBits64 d).length - 1 = pre.length + 7 := by simp
  rw [hlast, List.getD_append_right _ _ _ _ (Nat.le_add_right _ _), Nat.add_sub_cancel_left,
    getD_bytesFromBits64 d (by decide)]

/-- The last n bytes of a block, as a list. -/
theorem all_drop_bytes_iff (d : Word) (n : Nat) (p : Byte) :
    ((bytesFromBits64 d).drop n).all (· == p) = true ↔ ∀ k, n ≤ k → k ≤ 7 → blockByte d k = p := by
  rw [List.all_eq_true]
  constructor
  · intro h k hn hk
    have hget : ((bytesFromBits64 d).drop n)[k - n]? = some (blockByte d k) := by
      rw [List.getElem?_drop, Nat.add_sub_cancel' hn, getElem?_bytesFromBits64 d (by omega)]
    exact beq_iff_eq.mp (h _ (List.mem_of_getElem? hget))
  · intro h b hb
    obtain ⟨j, hj⟩ := List.mem_iff_getElem?.mp hb
    rw [List.getElem?_drop] at hj
    have hin : n + j < 8 := by
      obtain ⟨hlt, -⟩ := List.getElem?_eq_some_iff.mp hj
      simpa using hlt
    rw [getElem?_bytesFromBits64 d hin] at hj
    cases hj
    exact beq_iff_eq.mpr (h _ (by omega) (by omega))

/-- The padding of a stream that ends with a block is checked in that block alone, as PadCheck checks it (R180). -/
theorem validPadding_append_block (pre : List Byte) (d : Word) :
    validPadding (pre ++ bytesFromBits64 d) = (padCheck d).1 := by
  rw [Bool.eq_iff_iff, padCheck_fst_iff]
  simp only [validPadding, getD_append_last_block, Bool.and_eq_true, decide_eq_true_eq, and_assoc]
  refine and_congr_right fun _ => and_congr_right fun h8 => ?_
  have hdrop : (pre ++ bytesFromBits64 d).length - (blockByte d 7).toNat =
      pre.length + (8 - (blockByte d 7).toNat) := by
    rw [List.length_append, bytesFromBits64_length]
    omega
  rw [hdrop, List.drop_append, List.drop_of_length_le (Nat.le_add_right _ _), List.nil_append, Nat.add_sub_cancel_left,
    all_drop_bytes_iff]

/-! ## Decrypt by its recovered blocks (R189) -/

theorem decryptMessage_of_nil {T : Tables} {rk : KeyFile} {x : List Byte} {iv : Word}
    (h : cbcDecryptBlocks T rk iv (wholeBlocks x) = []) :
    decryptMessage T rk x iv = { bytes := [], truncWarn := decide (x.length % 8 ≠ 0), padWarn := false } := by
  simp [decryptMessage, h]

theorem toNat_padlenOf_of_valid {d : Word} (h : (padCheck d).1 = true) :
    (padlenOf (padCheck d)).toNat = (blockByte d 7).toNat := by
  obtain ⟨-, h8, -⟩ := (padCheck_fst_iff d).mp h
  rw [padlenOf, if_pos h, padCheck_snd, BitVec.toNat_setWidth, Nat.mod_eq_of_lt (by omega)]

/-- Decrypt drops the PADLEN bytes that the check of the last block finds, and warns when it finds none. -/
theorem decryptMessage_of_append {T : Tables} {rk : KeyFile} {x : List Byte} {iv : Word} {ds : List Word} {d : Word}
    (h : cbcDecryptBlocks T rk iv (wholeBlocks x) = ds ++ [d]) :
    decryptMessage T rk x iv =
      { bytes := ((ds ++ [d]).flatMap bytesFromBits64).take
          (((ds ++ [d]).flatMap bytesFromBits64).length - (padlenOf (padCheck d)).toNat)
        truncWarn := decide (x.length % 8 ≠ 0)
        padWarn := !(padCheck d).1 } := by
  have hbytes : (ds ++ [d]).flatMap bytesFromBits64 = ds.flatMap bytesFromBits64 ++ bytesFromBits64 d := by
    rw [List.flatMap_append, List.flatMap_singleton]
  have hne : (ds.flatMap bytesFromBits64 ++ bytesFromBits64 d).isEmpty = false := by simp [bytesFromBits64]
  simp only [decryptMessage, h, hbytes, hne, validPadding_append_block, getD_append_last_block, Bool.false_eq_true,
    if_false]
  cases hvalid : (padCheck d).1 with
  | true => rw [if_pos rfl, toNat_padlenOf_of_valid hvalid, Bool.not_true]
  | false =>
    rw [if_neg Bool.false_ne_true, padlenOf_of_invalid hvalid, BitVec.toNat_zero, Nat.sub_zero, List.take_length,
      Bool.not_false]

/-! ## The round trip (R194) -/

/-- Each block comes back: the transform is undone, and the chaining value cancels. -/
theorem cbcDecryptBlocks_cbcEncryptBlocks (rk : KeyFile) (ch : Word) (bs : List Word) :
    cbcDecryptBlocks tables rk ch (cbcEncryptBlocks tables rk ch bs) = bs := by
  induction bs generalizing ch with
  | nil => rfl
  | cons b bs ih =>
    have hblock (x : Word) : blockTransform tables (blockTransform tables x (keysFwd rk)) (keysRev rk) = x :=
      blockTransform_reverse_blockTransform x (keysFwd rk)
    rw [cbcEncryptBlocks, cbcDecryptBlocks, ih, hblock, BitVec.xor_assoc, BitVec.xor_self, BitVec.xor_zero]

/-- Settles O37: the recovered blocks are those of the padded message, whose last block carries valid padding. -/
theorem decryptOfEncryptIsTheMessage : Obligations.DecryptOfEncryptIsTheMessage := by
  intro rk m iv
  have hrest : m.length % 8 < 8 := Nat.mod_lt _ (by decide)
  have hblocks : cbcDecryptBlocks tables rk iv (wholeBlocks (encryptMessage tables rk m iv)) =
      wholeBlocks m ++ [padBlock (lastBlock m 0#64) (m.length % 8)] := by
    rw [encryptMessage, wholeBlocks_flatMap, cbcDecryptBlocks_cbcEncryptBlocks, wholeBlocks_padMessage m 0#64]
  have hcheck := generatedPaddingIsValid (lastBlock m 0#64) (m.length % 8) hrest
  have hbytes : (wholeBlocks m ++ [padBlock (lastBlock m 0#64) (m.length % 8)]).flatMap bytesFromBits64 =
      padMessage m := by
    rw [← wholeBlocks_padMessage, flatMap_wholeBlocks (length_padMessage_mod m)]
  have hpadlen : (padlenOf (true, BitVec.ofNat 8 (8 - m.length % 8))).toNat = paddingCount m.length := by
    simp only [padlenOf, if_true, BitVec.toNat_setWidth, BitVec.toNat_ofNat, paddingCount_eq]
    omega
  have hwhole : (encryptMessage tables rk m iv).length % 8 = 0 := by
    rw [encryptMessage, length_flatMap_bytes, Nat.mul_mod_right]
  rw [decryptMessage_of_append hblocks, hbytes, hcheck, hpadlen, length_padMessage, Nat.add_sub_cancel, take_padMessage,
    hwhole]
  rfl

end Sys2Proof.Machine
end

section
/-! PROOFS. The statements about the two drivers: their runs compute Encrypt and Decrypt (44_cbc.md R190, R191;
30_encoding.md R86, R87). -/

namespace Sys2Proof.Machine

/-! ## Runs of a list of turns -/

/-- A run of at least one step takes it. -/
theorem core_run_succ {n : Nat} {s t : State} (h : Host.Core.run core (n + 1) s = .next t) :
    ∃ u, step s = .next u ∧ Host.Core.run core n u = .next t := by
  have general (M : Host.Core) (a b : M.State) (hrun : M.run (n + 1) a = .next b) :
      ∃ c, M.step a = .next c ∧ M.run n c = .next b := by
    rw [Host.Core.run] at hrun
    cases hstep : M.step a with
    | next c => exact ⟨c, rfl, by simpa only [hstep] using hrun⟩
    | fault why => simp [hstep] at hrun
    | refused why => simp [hstep] at hrun
  exact general core s t h

theorem core_run_add {a : Nat} (b : Nat) {s t : State} (h : Host.Core.run core a s = .next t) :
    Host.Core.run core (a + b) s = Host.Core.run core b t := by
  induction a generalizing s with
  | zero => cases h; rw [Nat.zero_add]
  | succ a ih =>
    obtain ⟨u, hstep, hrun⟩ := core_run_succ h
    rw [Nat.add_right_comm, core_run_of_step _ hstep, ih hrun]

/-- The turns `ts` take `s` to `t`, whatever turns follow them. -/
def turnsTo (ts : List Turn) (s t : State) : Prop :=
  ∀ rest, Host.Core.run core ts.length { s with schedule := ts ++ rest } = .next { t with schedule := rest }

theorem turnsTo_nil (s : State) : turnsTo [] s s := fun _ => rfl

theorem turnsTo_append {ts us : List Turn} {s t u : State} (h : turnsTo ts s t) (h' : turnsTo us t u) :
    turnsTo (ts ++ us) s u := by
  intro rest
  rw [List.length_append, List.append_assoc, core_run_add _ (h (us ++ rest)), h' rest]

theorem turnsTo_of_takeTurn {turn : Turn} {s t : State}
    (h : ∀ turns, takeTurn turn { s with schedule := turns } = .next { t with schedule := turns }) :
    turnsTo [turn] s t := fun rest =>
  core_run_of_step 0 ((step_of_cons (s := { s with schedule := turn :: rest }) rfl).trans (h rest))

/-! ## What the host has read from DOUT -/

/-- The values read from DOUT among what the host has received, oldest first. -/
def doutValues (rc : List (PortIndex × Word)) : List Word :=
  (rc.reverse.filter fun x => x.1 == 5#5).map Prod.snd

theorem doutReads_eq (s : State) : doutReads s = doutValues s.received := rfl

theorem doutValues_status (v : Word) (rc : List (PortIndex × Word)) : doutValues ((1#5, v) :: rc) = doutValues rc := by
  simp [doutValues]

theorem doutValues_dout (v : Word) (rc : List (PortIndex × Word)) :
    doutValues ((5#5, v) :: rc) = doutValues rc ++ [v] := by
  simp [doutValues]

/-! ## The turns of `wait` (R87) -/

theorem turnsTo_readStatus_of_idle {s : State} (hpend : s.pend = none) :
    turnsTo [.access (.read 1#5)] s (receive 1#5 (statusWord s) s) :=
  turnsTo_of_takeTurn fun _ => (hostTurn_of_instr (a := .read 1#5) (i := .rdStatus) rfl _).trans
    (congrArg Host.Outcome.next (readOpen_of_idle _ _ _ ((busy_eq_false_iff _).mpr hpend)))

theorem turnsTo_readStatus_of_busy {s : State} (hpend : s.pend ≠ none) :
    turnsTo [.access (.read 1#5)] s
      (receive 1#5 (statusWhileBusy s (Config.freeWord s.draws)) { s with draws := s.draws + 1 }) :=
  turnsTo_of_takeTurn fun _ => (hostTurn_of_instr (a := .read 1#5) (i := .rdStatus) rfl _).trans
    (congrArg Host.Outcome.next (readOpen_of_busy _ _ _ (Option.isSome_iff_ne_none.mpr hpend)))

theorem turnsTo_readDout_of_idle {s : State} (hpend : s.pend = none) :
    turnsTo [.access (.read 5#5)] s (receive 5#5 s.dout s) :=
  turnsTo_of_takeTurn fun _ => (hostTurn_of_instr (a := .read 5#5) (i := .rdDout) rfl _).trans
    (congrArg Host.Outcome.next (readOpen_of_idle _ _ _ ((busy_eq_false_iff _).mpr hpend)))

/-- A read of STATUS, whether a command is in flight or not. -/
theorem turnsTo_readStatus (s : State) : ∃ v n,
    turnsTo [.access (.read 1#5)] s { s with received := (1#5, v) :: s.received, draws := n } := by
  obtain hpend | hpend := eq_or_ne s.pend none
  · exact ⟨_, _, turnsTo_readStatus_of_idle hpend⟩
  · exact ⟨_, _, turnsTo_readStatus_of_busy hpend⟩

theorem turnsTo_readStatus_replicate (n : Nat) (s : State) : ∃ rc m,
    turnsTo (List.replicate n (.access (.read 1#5))) s { s with received := rc, draws := m } ∧
      doutValues rc = doutValues s.received := by
  induction n generalizing s with
  | zero => exact ⟨s.received, s.draws, turnsTo_nil s, rfl⟩
  | succ n ih =>
    obtain ⟨v, k, hread⟩ := turnsTo_readStatus s
    obtain ⟨rc, m, hrest, hdout⟩ := ih { s with received := (1#5, v) :: s.received, draws := k }
    exact ⟨rc, m, turnsTo_append hread hrest, hdout.trans (doutValues_status v _)⟩

/-- A `wait` with no command in flight only reads STATUS. -/
theorem turnsTo_wait_of_idle (n : Nat) {s : State} (hpend : s.pend = none) : ∃ rc m,
    turnsTo (waitTurns n) s { s with received := rc, draws := m } ∧ doutValues rc = doutValues s.received := by
  obtain ⟨rc, m, hreads, hdout⟩ := turnsTo_readStatus_replicate n s
  have hengine : turnsTo [.engine] { s with received := rc, draws := m } { s with received := rc, draws := m } :=
    turnsTo_of_takeTurn fun _ => engineTurn_of_idle hpend
  have hlast := turnsTo_readStatus_of_idle (s := { s with received := rc, draws := m }) hpend
  exact ⟨_, m, turnsTo_append hreads (turnsTo_append hengine hlast), (doutValues_status _ rc).trans hdout⟩

/-! ## The turns of `run` and of feeding a block (R86, R190) -/

/-- What a driver needs of the core between its lines: nothing in flight, no error, and valid keys. -/
structure State.Serves (s : State) : Prop where
  idle : s.pend = none
  sound : s.error = none
  keyed : s.ksValid = true

theorem exec_command_of_other_schedule {i : Instr} {s t : State} (hcmd : Spec.isCommand i) (hi : i ≠ .softReset)
    (h : exec i s = .next t) (turns : List Turn) :
    exec i { s with schedule := turns } = .next { t with schedule := turns } := by
  obtain ⟨w, hw⟩ := hcmd
  obtain ⟨-, herr, -, -, -, -, hrc⟩ := command_frame hw hi h
  rw [exec_command_of_other_host_state ⟨w, hw⟩ hi h s.error turns s.received, ← herr, ← hrc]

/-- `cmd` puts the word of a legal command in PEND. -/
theorem turnsTo_cmd {i : Instr} {w : Word} (hcode : encode i = .command w) (hwf : i.wf = true) (hi : i ≠ .softReset)
    {s : State} (hs : s.Serves) : turnsTo (cmdTurns i) s { s with pend := some w } := by
  have hturns : cmdTurns i = [.access (.write 0#5 w)] := by rw [cmdTurns, hcode]
  rw [hturns]
  exact turnsTo_of_takeTurn fun turns => (hostTurn_of_instr (a := .write 0#5 w) (i := .wrCmd w) rfl _).trans
    (legalCommandOnAnIdleCoreIsAccepted i w { s with schedule := turns } hwf hcode hi hs.sound hs.idle fun _ => hs.keyed)

/-- `run` performs its command on the state it finds, but for PEND and what the reads of STATUS draw and return, and ends
with a read of the new STATUS. -/
theorem turnsTo_run {i : Instr} {w : Word} (hcode : encode i = .command w) (hwf : i.wf = true) (hi : i ≠ .softReset)
    {s : State} (hs : s.Serves) (n : Nat) : ∃ rc m t,
      doutValues rc = doutValues s.received ∧
      exec i { s with pend := some w, received := rc, draws := m } = .next t ∧
      turnsTo (lineTurns n (.run i)) s (receive 1#5 (statusWord t) t) := by
  obtain ⟨rc, m, hreads, hdout⟩ := turnsTo_readStatus_replicate n { s with pend := some w }
  obtain ⟨t, ht⟩ := exec_answers_next i { s with pend := some w, received := rc, draws := m }
  have hd : decodeCommand w = .instr i := by
    have h := decode_encode hwf
    rwa [hcode] at h
  have hengine : turnsTo [.engine] { s with pend := some w, received := rc, draws := m } t :=
    turnsTo_of_takeTurn fun turns => (engineTurn_of_command rfl hd).trans
      (exec_command_of_other_schedule ⟨w, hcode⟩ hi ht turns)
  obtain ⟨hpend, -⟩ := command_frame hcode hi ht
  exact ⟨rc, m, t, hdout, ht, turnsTo_append (turnsTo_cmd hcode hwf hi hs)
    (turnsTo_append hreads (turnsTo_append hengine (turnsTo_readStatus_of_idle hpend)))⟩

theorem programTurns_append (latency : Nat → Nat) (n : Nat) (p q : List HostLine) :
    programTurns latency n (p ++ q) = programTurns latency n p ++ programTurns latency (n + p.length) q := by
  induction p generalizing n with
  | nil => rfl
  | cons line p ih =>
    rw [List.cons_append, programTurns, ih, programTurns, List.append_assoc, List.length_cons, Nat.add_right_comm n 1,
      Nat.add_assoc]

/-- A program whose last line is a read has that read as its last turn. -/
theorem programTurns_concat_rd (latency : Nat → Nat) (n : Nat) (p : List HostLine) (index : PortIndex) :
    programTurns latency n (p ++ [.rd index]) = programTurns latency n p ++ [.access (.read index)] := by
  rw [programTurns_append]
  rfl

/-- Feeding a block performs the command on it and reads the new DOUT. -/
theorem turnsTo_feedBlock {i : Instr} {w : Word} (hcode : encode i = .command w) (hwf : i.wf = true)
    (hi : i ≠ .softReset) {s : State} (hs : s.Serves) (latency : Nat → Nat) (n : Nat) (b : Word) : ∃ rc m t rc',
      exec i { s with din := b, pend := some w, received := rc, draws := m } = .next t ∧
      turnsTo (programTurns latency n (feedBlock i b)) s { t with received := rc' } ∧
      doutValues rc' = doutValues s.received ++ [t.dout] := by
  have hwrite : turnsTo [.access (.write 4#5 b)] s { s with din := b } := turnsTo_of_takeTurn fun _ =>
    (hostTurn_write_din b _).trans (exec_wrDin_of_idle b hs.sound hs.idle)
  obtain ⟨rc, m, t, hdout, ht, hrun⟩ :=
    turnsTo_run hcode hwf hi (s := { s with din := b }) ⟨hs.idle, hs.sound, hs.keyed⟩ (latency (n + 1))
  obtain ⟨hpend, -, -, -, -, -, hrc⟩ := command_frame hcode hi ht
  have hread := turnsTo_readDout_of_idle (s := receive 1#5 (statusWord t) t) hpend
  refine ⟨rc, m, t, _, ht, turnsTo_append hwrite (turnsTo_append hrun hread), ?_⟩
  rw [receive_dout, receive_received, doutValues_dout, doutValues_status, hrc, hdout]

/-! ## CBC_START, and the blocks of the encrypt driver (R181, R190) -/

theorem turnsTo_cbcStart {s : State} (hs : s.Serves) (n : Nat) : ∃ rc m,
    turnsTo (lineTurns n (.run .cbcStart)) s
      { s with chain := s.iv, decSeen := false, truncWarn := false, padWarn := false, padlen := 0#4, pend := none,
               received := rc, draws := m } ∧
    doutValues rc = doutValues s.received := by
  obtain ⟨rc, m, t, hdout, ht, hturns⟩ := turnsTo_run (i := .cbcStart) rfl rfl (by decide) hs n
  rw [cbcStartLoadsTheChain] at ht
  cases ht
  exact ⟨_, m, hturns, (doutValues_status _ rc).trans hdout⟩

/-- Feeding a block to a command that encrypts `f` of DIN. -/
theorem turnsTo_feedBlock_encrypt {i : Instr} {w : Word} (hcode : encode i = .command w) (hwf : i.wf = true)
    (hi : i ≠ .softReset) {f : Word → Word} (hexec : ∀ u, exec i u = .next (encryptAndChain (f u.din) u))
    {s : State} (hs : s.Serves) (latency : Nat → Nat) (n : Nat) (b : Word) : ∃ l r k rc m,
      turnsTo (programTurns latency n (feedBlock i b)) s
        { s with din := b, dout := blockTransform tables (f b ^^^ s.chain) (keysFwd s.rk),
                 chain := blockTransform tables (f b ^^^ s.chain) (keysFwd s.rk), pend := none,
                 l := l, r := r, round := k, received := rc, draws := m } ∧
      doutValues rc = doutValues s.received ++ [blockTransform tables (f b ^^^ s.chain) (keysFwd s.rk)] := by
  obtain ⟨rc, m, t, rc', ht, hturns, hdout⟩ := turnsTo_feedBlock hcode hwf hi hs latency n b
  rw [hexec] at ht
  cases ht
  exact ⟨_, _, _, rc', _, hturns, hdout⟩

/-- The whole blocks and the last one, padded to `n` bytes: the host reads their CBC encryption. -/
theorem turnsTo_encryptBlocks {a : BitVec 4} (ha : (Instr.cbcEncFinal a).wf = true) (latency : Nat → Nat) (last : Word)
    (bs : List Word) {s : State} (hs : s.Serves) (n : Nat) : ∃ t,
      turnsTo (programTurns latency n (bs.flatMap (feedBlock .cbcEnc) ++ feedBlock (.cbcEncFinal a) last)) s t ∧
      t.pend = none ∧ t.error = none ∧
      doutReads t =
        doutReads s ++ cbcEncryptBlocks tables s.rk s.chain (bs ++ [padBlock last (argValue a)]) := by
  induction bs generalizing s n with
  | nil =>
    obtain ⟨l, r, k, rc, m, hturns, hdout⟩ := turnsTo_feedBlock_encrypt (i := .cbcEncFinal a)
      (f := fun w => padBlock w (argValue a)) rfl ha (by simp) (fun _ => rfl) hs latency n last
    exact ⟨_, hturns, rfl, hs.sound, hdout⟩
  | cons b bs ih =>
    obtain ⟨l, r, k, rc, m, hfirst, hdout⟩ := turnsTo_feedBlock_encrypt (i := .cbcEnc)
      (f := id) rfl rfl (by decide) (fun _ => rfl) hs latency n b
    obtain ⟨t, hrest, hpend, herr, hreads⟩ := ih (s := { s with
      din := b, dout := blockTransform tables (b ^^^ s.chain) (keysFwd s.rk),
      chain := blockTransform tables (b ^^^ s.chain) (keysFwd s.rk), pend := none,
      l := l, r := r, round := k, received := rc, draws := m }) ⟨rfl, hs.sound, hs.keyed⟩ (n + 3)
    refine ⟨t, ?_, hpend, herr, ?_⟩
    · rw [List.flatMap_cons, List.append_assoc, programTurns_append]
      exact turnsTo_append hfirst hrest
    · rw [hreads, doutReads_eq, hdout, List.append_assoc]
      rfl

/-! ## The end of a driver's run (R279) -/

theorem runEnded_false_of_access {s : State} {a : Access} (h : .access a ∈ s.schedule) : s.runEnded = false :=
  Bool.eq_false_iff.mpr fun hended => ((runEnded_iff s).mp hended).1 a h

/-- A run whose last turn is an access ends with that turn, when it leaves nothing in flight. -/
theorem endOfRun_of_last_access {ts : List Turn} {a : Access} {s t : State} (hsched : s.schedule = ts ++ [.access a])
    (hrun : Host.Core.run core s.schedule.length s = .next t) (hpend : t.pend = none) (hdone : t.schedule = []) :
    s.endOfRun = .next t := by
  have hended := runEnded_of_done hdone hpend
  rw [State.endOfRun]
  rw [hsched] at hrun ⊢
  induction ts generalizing s with
  | nil =>
    have hnot : s.runEnded = false := runEnded_false_of_access (a := a) (by simp [hsched])
    obtain ⟨u, hstep, hu⟩ := core_run_succ hrun
    cases hu
    exact (runToEnd_of_step 1 hnot hstep).trans (runToEnd_of_ended 1 hended)
  | cons turn ts ih =>
    have hnot : s.runEnded = false := runEnded_false_of_access (a := a) (by simp [hsched])
    obtain ⟨u, hstep, hu⟩ := core_run_succ hrun
    have htail : u.schedule = ts ++ [.access a] := by rw [step_schedule hstep, hsched]; rfl
    exact (runToEnd_of_step _ hnot hstep).trans (ih htail hu)

/-- What the turns of a whole schedule say of its run. -/
theorem run_of_turnsTo {ts : List Turn} {a : Access} {s t : State} (hsched : s.schedule = ts ++ [.access a])
    (h : turnsTo s.schedule s t) (hpend : t.pend = none) (herr : t.error = none) :
    Host.Core.run core s.schedule.length s = .next { t with schedule := [] } ∧
      s.endOfRun = .next { t with schedule := [] } ∧ State.safeEnd { t with schedule := [] } = true := by
  have hrun := h []
  rw [List.append_nil] at hrun
  refine ⟨hrun, endOfRun_of_last_access hsched hrun hpend rfl, ?_⟩
  have hended : State.runEnded { t with schedule := [] } = true := runEnded_of_done rfl hpend
  have hsound : State.err { t with schedule := [] } = false := (err_eq_false_iff _).mpr herr
  rw [State.safeEnd, hended, hsound, Bool.not_false, Bool.and_true]

theorem encryptProgram_eq_concat (m : List Byte) (fill : Word) : ∃ p, encryptProgram m fill = p ++ [.rd 5#5] :=
  ⟨_, (List.append_assoc _ [HostLine.wr 4#5 (lastBlock m fill), .run (.cbcEncFinal (BitVec.ofNat 4 (m.length % 8)))]
    [.rd 5#5]).symm⟩

/-- Settles O38: the whole blocks and the padded last one are the blocks of the padded message. -/
theorem encryptDriverComputesEncrypt : Obligations.EncryptDriverComputesEncrypt := by
  intro s latency m fill hpend herr hkeys hsched
  have hs : s.Serves := ⟨hpend, herr, hkeys⟩
  have hn : (BitVec.ofNat 4 (m.length % 8)).toNat = m.length % 8 := by
    rw [BitVec.toNat_ofNat]
    omega
  have hwf : (Instr.cbcEncFinal (BitVec.ofNat 4 (m.length % 8))).wf = true := by
    rw [Instr.wf, argUpTo7, hn, decide_eq_true (Nat.mod_lt _ (by decide))]
  obtain ⟨rc, k, hwait, hrc⟩ := turnsTo_wait_of_idle (latency 0) hpend
  obtain ⟨rc', k', hstart, hrc'⟩ := turnsTo_cbcStart (s := { s with received := rc, draws := k })
    ⟨hpend, herr, hkeys⟩ (latency 1)
  obtain ⟨t, hblocks, htpend, hterr, hreads⟩ := turnsTo_encryptBlocks hwf latency (lastBlock m fill) (wholeBlocks m)
    (s := { s with chain := s.iv, decSeen := false, truncWarn := false, padWarn := false, padlen := 0#4, pend := none,
                   received := rc', draws := k' }) ⟨rfl, herr, hkeys⟩ 2
  have hturns : turnsTo s.schedule s t := by
    rw [hsched, encryptProgram, List.append_assoc, programTurns_append]
    exact turnsTo_append (turnsTo_append hwait (turnsTo_append hstart (turnsTo_nil _))) hblocks
  obtain ⟨p, hp⟩ := encryptProgram_eq_concat m fill
  have hlast : s.schedule = programTurns latency 0 p ++ [.access (.read 5#5)] := by
    rw [hsched, hp, programTurns_concat_rd]
  obtain ⟨hrun, hend, hsafe⟩ := run_of_turnsTo hlast hturns htpend hterr
  rw [argValue, hn, ← wholeBlocks_padMessage] at hreads
  exact ⟨_, cbcEncryptBlocks tables s.rk s.iv (wholeBlocks (padMessage m)), hrun, rfl, hend, hsafe,
    hreads.trans (congrArg (· ++ _) (hrc'.trans hrc)), rfl⟩

/-! ## The decrypt driver (R191) -/

theorem turnsTo_feedBlock_cbcDec {s : State} (hs : s.Serves) (latency : Nat → Nat) (n : Nat) (b : Word) :
    ∃ l r k rc m,
      turnsTo (programTurns latency n (feedBlock .cbcDec b)) s
        { s with din := b, dout := blockTransform tables b (keysRev s.rk) ^^^ s.chain, chain := b, decSeen := true,
                 pend := none, l := l, r := r, round := k, received := rc, draws := m } ∧
      doutValues rc = doutValues s.received ++ [blockTransform tables b (keysRev s.rk) ^^^ s.chain] := by
  obtain ⟨rc, m, t, rc', ht, hturns, hdout⟩ :=
    turnsTo_feedBlock (i := .cbcDec) rfl rfl (by decide) hs latency n b
  cases ht
  exact ⟨_, _, _, rc', _, hturns, hdout⟩

/-- The host reads the CBC decryption of the blocks; DOUT holds the last of them, and DEC_SEEN is set if there is one. -/
theorem turnsTo_decryptBlocks (latency : Nat → Nat) (bs : List Word) {s : State} (hs : s.Serves) (n : Nat) :
    ∃ din dout ch seen l r k rc m,
      turnsTo (programTurns latency n (bs.flatMap (feedBlock .cbcDec))) s
        { s with din := din, dout := dout, chain := ch, decSeen := seen, pend := none,
                 l := l, r := r, round := k, received := rc, draws := m } ∧
      doutValues rc = doutValues s.received ++ cbcDecryptBlocks tables s.rk s.chain bs ∧
      dout = (cbcDecryptBlocks tables s.rk s.chain bs).getLast?.getD s.dout ∧
      seen = (s.decSeen || !(cbcDecryptBlocks tables s.rk s.chain bs).isEmpty) := by
  induction bs generalizing s n with
  | nil =>
    refine ⟨s.din, s.dout, s.chain, s.decSeen, s.l, s.r, s.round, s.received, s.draws, ?_, ?_, rfl, ?_⟩
    · rw [← hs.idle]
      exact turnsTo_nil s
    · simp [cbcDecryptBlocks]
    · simp [cbcDecryptBlocks]
  | cons b bs ih =>
    obtain ⟨l, r, k, rc, m, hfirst, hdout⟩ := turnsTo_feedBlock_cbcDec hs latency n b
    obtain ⟨din, dout, ch, seen, l', r', k', rc', m', hrest, hreads, hlast, hseen⟩ := ih (s := { s with
      din := b, dout := blockTransform tables b (keysRev s.rk) ^^^ s.chain, chain := b, decSeen := true,
      pend := none, l := l, r := r, round := k, received := rc, draws := m }) ⟨rfl, hs.sound, hs.keyed⟩ (n + 3)
    refine ⟨din, dout, ch, seen, l', r', k', rc', m', ?_, ?_, ?_, ?_⟩
    · rw [List.flatMap_cons, programTurns_append]
      exact turnsTo_append hfirst hrest
    · rw [hreads, hdout, List.append_assoc]
      rfl
    · rw [hlast, cbcDecryptBlocks, List.getLast?_cons, Option.getD_some]
    · rw [hseen, cbcDecryptBlocks, List.isEmpty_cons, Bool.not_false, Bool.or_true, Bool.true_or]

/-- The last lines of the driver: CBC_DEC_END, and the read of the STATUS that reports its check. -/
theorem turnsTo_cbcDecEnd {tail : BitVec 4} (htail : (Instr.cbcDecEnd tail).wf = true) {s : State} (hs : s.Serves)
    (latency : Nat → Nat) (n : Nat) : ∃ t,
      turnsTo (programTurns latency n [.run (.cbcDecEnd tail), .rd 1#5]) s t ∧ t.pend = none ∧ t.error = none ∧
      doutReads t = doutReads s ∧ t.received.head? = some (1#5, statusWord t) ∧
      t.truncWarn = (s.truncWarn || decide (argValue tail ≠ 0)) ∧
      t.padlen = (if s.decSeen then padlenOf (padCheck s.dout) else 0#4) ∧
      t.padWarn = (if s.decSeen then !(padCheck s.dout).1 else s.padWarn) := by
  obtain ⟨rc, m, t, hdout, ht, hrun⟩ := turnsTo_run (i := .cbcDecEnd tail) rfl htail (by simp) hs (latency n)
  rw [exec_cbcDecEnd] at ht
  cases ht
  refine ⟨_, turnsTo_append hrun (turnsTo_readStatus_of_idle rfl), rfl, hs.sound, ?_, rfl, rfl, rfl, rfl⟩
  exact (doutValues_status _ _).trans ((doutValues_status _ rc).trans hdout)

/-- What the host makes of the blocks and of a STATUS that reports the check of the last one is Decrypt's answer. -/
theorem decryptResult_eq_decryptMessage {rk : KeyFile} {x : List Byte} {iv : Word} {t : State} {dout before : Word}
    (htrunc : t.truncWarn = decide (x.length % 8 ≠ 0))
    (hlast : dout = (cbcDecryptBlocks tables rk iv (wholeBlocks x)).getLast?.getD before)
    (hpadlen : t.padlen = if !(cbcDecryptBlocks tables rk iv (wholeBlocks x)).isEmpty then padlenOf (padCheck dout)
      else 0#4)
    (hwarn : t.padWarn = if !(cbcDecryptBlocks tables rk iv (wholeBlocks x)).isEmpty then !(padCheck dout).1
      else false) :
    decryptResult (cbcDecryptBlocks tables rk iv (wholeBlocks x)) (statusWord t) = decryptMessage tables rk x iv := by
  obtain ⟨-, -, htruncBit, hwarnBit⟩ := statusWord_getLsbD_flags t
  rw [decryptResult, extractLsb'_statusWord_padlen, htruncBit, hwarnBit, htrunc]
  obtain hnil | ⟨ds, d, happ⟩ := (cbcDecryptBlocks tables rk iv (wholeBlocks x)).eq_nil_or_concat'
  · rw [hnil] at hpadlen hwarn ⊢
    rw [decryptMessage_of_nil hnil, hpadlen, hwarn]
    rfl
  · rw [happ] at hpadlen hwarn hlast ⊢
    have hd : dout = d := by simpa using hlast
    have hne : (ds ++ [d]).isEmpty = false := by simp
    rw [hne, Bool.not_false, if_pos rfl, hd] at hpadlen hwarn
    rw [decryptMessage_of_append happ, hpadlen, hwarn]

theorem decryptProgram_eq_concat (x : List Byte) : ∃ p, decryptProgram x = p ++ [.rd 1#5] :=
  ⟨_, (List.append_assoc _ [HostLine.run (.cbcDecEnd (BitVec.ofNat 4 (x.length % 8)))] [.rd 1#5]).symm⟩

/-- Settles O39: the recovered blocks by `turnsTo_decryptBlocks`, and the end of the pass by CBC_DEC_END's report. -/
theorem decryptDriverComputesDecrypt : Obligations.DecryptDriverComputesDecrypt := by
  intro s latency x hpend herr hkeys hsched
  have hn : (BitVec.ofNat 4 (x.length % 8)).toNat = x.length % 8 := by
    rw [BitVec.toNat_ofNat]
    omega
  have hwf : (Instr.cbcDecEnd (BitVec.ofNat 4 (x.length % 8))).wf = true := by
    rw [Instr.wf, argUpTo7, hn, decide_eq_true (Nat.mod_lt _ (by decide))]
  obtain ⟨rc, m, hstart, hrc⟩ := turnsTo_cbcStart ⟨hpend, herr, hkeys⟩ (latency 0)
  obtain ⟨din, dout, ch, seen, l, r, k, rc', m', hblocks, hreads, hdout, hseen⟩ :=
    turnsTo_decryptBlocks latency (wholeBlocks x)
      (s := { s with chain := s.iv, decSeen := false, truncWarn := false, padWarn := false, padlen := 0#4,
                     pend := none, received := rc, draws := m }) ⟨rfl, herr, hkeys⟩ 1
  obtain ⟨t, hlines, htpend, hterr, htreads, hstatus, htrunc, hpadlen, hwarn⟩ := turnsTo_cbcDecEnd hwf
    (s := { s with din := din, dout := dout, chain := ch, decSeen := seen, truncWarn := false, padWarn := false,
                   padlen := 0#4, pend := none, l := l, r := r, round := k, received := rc', draws := m' })
    ⟨rfl, herr, hkeys⟩ latency (1 + ((wholeBlocks x).flatMap (feedBlock .cbcDec)).length)
  have hturns : turnsTo s.schedule s t := by
    rw [hsched, decryptProgram, List.append_assoc, programTurns_append, programTurns_append]
    exact turnsTo_append (turnsTo_append hstart (turnsTo_nil _)) (turnsTo_append hblocks hlines)
  obtain ⟨p, hp⟩ := decryptProgram_eq_concat x
  have hlast : s.schedule = programTurns latency 0 p ++ [.access (.read 1#5)] := by
    rw [hsched, hp, programTurns_concat_rd]
  obtain ⟨hrun, hend, hsafe⟩ := run_of_turnsTo hlast hturns htpend hterr
  rw [argValue, hn, Bool.false_or] at htrunc
  rw [hseen, Bool.false_or] at hpadlen hwarn
  exact ⟨_, cbcDecryptBlocks tables s.rk s.iv (wholeBlocks x), statusWord t, hrun, rfl, hend, hsafe,
    htreads.trans (hreads.trans (congrArg (· ++ _) hrc)), hstatus,
    decryptResult_eq_decryptMessage htrunc hdout hpadlen hwarn⟩

end Sys2Proof.Machine
end
